-- ==== Sys2Proof/Word.lean ====
section
/-!
DEFINITION. The word types of the block, each as wide as spec/00_scope.md R8 and R18 say.
-/

namespace Sys2Proof

/-- A memory cell, a V register, a timer, the immediate `nn` (R8). -/
abbrev Byte := BitVec 8

/-- An instruction word, `pc`, `I`, a stack entry (R8). -/
abbrev Word := BitVec 16

/-- The 4-bit fields `x`, `y`, `n` of an instruction, and a key code (R12, R18). -/
abbrev Nibble := BitVec 4

/-- The number of a general register, V0 to VF (R21). -/
abbrev Reg := BitVec 4

/-- The 12-bit address field `nnn` (R18). -/
abbrev Addr12 := BitVec 12

end Sys2Proof
end

