-- ==== Sys2Proof/Syntax.lean ====
section
/-!
DEFINITION. The 34 instructions, one constructor per row of spec/30_encoding.md R95, in the table's order.
Every operand has exactly the width of its field (R93), so there is no term of `Instr` that no word encodes.
-/

namespace Sys2Proof

/-- One instruction with its operand fields. -/
inductive Instr where
  /-- 00E0 `CLS` -/
  | cls
  /-- 00EE `RET` -/
  | ret
  /-- 1nnn `JP nnn` -/
  | jp (nnn : Addr12)
  /-- 2nnn `CALL nnn` -/
  | call (nnn : Addr12)
  /-- 3xnn `SE Vx, nn` -/
  | seVxNn (x : Reg) (nn : Byte)
  /-- 4xnn `SNE Vx, nn` -/
  | sneVxNn (x : Reg) (nn : Byte)
  /-- 5xy0 `SE Vx, Vy` -/
  | seVxVy (x y : Reg)
  /-- 6xnn `LD Vx, nn` -/
  | ldVxNn (x : Reg) (nn : Byte)
  /-- 7xnn `ADD Vx, nn` -/
  | addVxNn (x : Reg) (nn : Byte)
  /-- 8xy0 `LD Vx, Vy` -/
  | ldVxVy (x y : Reg)
  /-- 8xy1 `OR Vx, Vy` -/
  | orVxVy (x y : Reg)
  /-- 8xy2 `AND Vx, Vy` -/
  | andVxVy (x y : Reg)
  /-- 8xy3 `XOR Vx, Vy` -/
  | xorVxVy (x y : Reg)
  /-- 8xy4 `ADD Vx, Vy` -/
  | addVxVy (x y : Reg)
  /-- 8xy5 `SUB Vx, Vy` -/
  | subVxVy (x y : Reg)
  /-- 8xy7 `SUBN Vx, Vy` -/
  | subnVxVy (x y : Reg)
  /-- 8xy6 `SHR Vx, Vy` -/
  | shrVxVy (x y : Reg)
  /-- 8xyE `SHL Vx, Vy` -/
  | shlVxVy (x y : Reg)
  /-- 9xy0 `SNE Vx, Vy` -/
  | sneVxVy (x y : Reg)
  /-- Annn `LD I, nnn` -/
  | ldI (nnn : Addr12)
  /-- Bnnn `JP V0, nnn` -/
  | jpV0 (nnn : Addr12)
  /-- Cxnn `RND Vx, nn` -/
  | rnd (x : Reg) (nn : Byte)
  /-- Dxyn `DRW Vx, Vy, n` -/
  | drw (x y : Reg) (n : Nibble)
  /-- Ex9E `SKP Vx` -/
  | skp (x : Reg)
  /-- ExA1 `SKNP Vx` -/
  | sknp (x : Reg)
  /-- Fx07 `LD Vx, DT` -/
  | ldVxDt (x : Reg)
  /-- Fx15 `LD DT, Vx` -/
  | ldDtVx (x : Reg)
  /-- Fx18 `LD ST, Vx` -/
  | ldStVx (x : Reg)
  /-- Fx1E `ADD I, Vx` -/
  | addIVx (x : Reg)
  /-- Fx0A `LD Vx, K` -/
  | ldVxK (x : Reg)
  /-- Fx29 `LD F, Vx` -/
  | ldFVx (x : Reg)
  /-- Fx33 `LD B, Vx` -/
  | ldBVx (x : Reg)
  /-- Fx55 `LD [I], Vx` -/
  | ldMemVx (x : Reg)
  /-- Fx65 `LD Vx, [I]` -/
  | ldVxMem (x : Reg)
deriving DecidableEq, Repr

end Sys2Proof
end

