-- ==== Sys2Proof/Decode.lean ====
section
/-!
DEFINITION. The decoder (spec/30_encoding.md R92 to R97) and, after it, the encoder, each written from the opcode map of
R95. `opcodeMap` is that map as data, by which the decoder is judged (Obligations: the decoder accepts exactly the words
that match a row).
-/

namespace Sys2Proof

/-! ### Fields (R93) -/

/-- `op = w[15:12]` -/
def opField (w : Word) : Nibble := w.extractLsb' 12 4

/-- `x = w[11:8]` -/
def xField (w : Word) : Reg := w.extractLsb' 8 4

/-- `y = w[7:4]` -/
def yField (w : Word) : Reg := w.extractLsb' 4 4

/-- `n = w[3:0]` -/
def nField (w : Word) : Nibble := w.extractLsb' 0 4

/-- `nn = w[7:0]` -/
def nnField (w : Word) : Byte := w.extractLsb' 0 8

/-- `nnn = w[11:0]` -/
def nnnField (w : Word) : Addr12 := w.extractLsb' 0 12

/-! ### The decoder (R94): primary dispatch on `op`, secondary on the whole word, on `n` or on `nn` -/

/-- `op = 0`: secondary dispatch on the whole word. -/
def decodeOp0 (w : Word) : Option Instr :=
  if w = 0x00E0#16 then some .cls
  else if w = 0x00EE#16 then some .ret
  else none

/-- `op = 8`: secondary dispatch on `n`. -/
def decodeOp8 (x y : Reg) (n : Nibble) : Option Instr :=
  if n = 0x0#4 then some (.ldVxVy x y)
  else if n = 0x1#4 then some (.orVxVy x y)
  else if n = 0x2#4 then some (.andVxVy x y)
  else if n = 0x3#4 then some (.xorVxVy x y)
  else if n = 0x4#4 then some (.addVxVy x y)
  else if n = 0x5#4 then some (.subVxVy x y)
  else if n = 0x7#4 then some (.subnVxVy x y)
  else if n = 0x6#4 then some (.shrVxVy x y)
  else if n = 0xE#4 then some (.shlVxVy x y)
  else none

/-- `op = E`: secondary dispatch on `nn`. -/
def decodeOpE (x : Reg) (nn : Byte) : Option Instr :=
  if nn = 0x9E#8 then some (.skp x)
  else if nn = 0xA1#8 then some (.sknp x)
  else none

/-- `op = F`: secondary dispatch on `nn`. -/
def decodeOpF (x : Reg) (nn : Byte) : Option Instr :=
  if nn = 0x07#8 then some (.ldVxDt x)
  else if nn = 0x15#8 then some (.ldDtVx x)
  else if nn = 0x18#8 then some (.ldStVx x)
  else if nn = 0x1E#8 then some (.addIVx x)
  else if nn = 0x0A#8 then some (.ldVxK x)
  else if nn = 0x29#8 then some (.ldFVx x)
  else if nn = 0x33#8 then some (.ldBVx x)
  else if nn = 0x55#8 then some (.ldMemVx x)
  else if nn = 0x65#8 then some (.ldVxMem x)
  else none

/-- `decode(w)` (R94). `none` is a decode failure (R97). The patterns of R95 are read strictly: every fixed digit must
match (90_conflicts.md C3; log 8). -/
def decode (w : Word) : Option Instr :=
  let op := opField w
  let x := xField w
  let y := yField w
  let n := nField w
  let nn := nnField w
  let nnn := nnnField w
  if op = 0x0#4 then decodeOp0 w
  else if op = 0x1#4 then some (.jp nnn)
  else if op = 0x2#4 then some (.call nnn)
  else if op = 0x3#4 then some (.seVxNn x nn)
  else if op = 0x4#4 then some (.sneVxNn x nn)
  else if op = 0x5#4 then (if n = 0x0#4 then some (.seVxVy x y) else none)
  else if op = 0x6#4 then some (.ldVxNn x nn)
  else if op = 0x7#4 then some (.addVxNn x nn)
  else if op = 0x8#4 then decodeOp8 x y n
  else if op = 0x9#4 then (if n = 0x0#4 then some (.sneVxVy x y) else none)
  else if op = 0xA#4 then some (.ldI nnn)
  else if op = 0xB#4 then some (.jpV0 nnn)
  else if op = 0xC#4 then some (.rnd x nn)
  else if op = 0xD#4 then some (.drw x y n)
  else if op = 0xE#4 then decodeOpE x nn
  else decodeOpF x nn

/-- Why bytes are no instruction. -/
inductive DecodeReject where
  /-- fewer than the two bytes of an instruction (R92); safe, the fetch itself never hands over fewer -/
  | truncated
  /-- the word matches no row of R95: a decode failure with that word (R97) -/
  | unassigned (w : Word)
deriving DecidableEq, Repr

/-- The big-endian word of two bytes, the byte at the lower address in bits 15:8 (20_memory.md R66). -/
def wordOfBytes (hi lo : Byte) : Word := hi ++ lo

/-- The decoder on bytes as memory holds them: the instruction and the bytes after it, or a rejection by name. -/
def decodeBytes : List Byte → Except DecodeReject (Instr × List Byte)
  | hi :: lo :: rest =>
    match decode (wordOfBytes hi lo) with
    | some i => .ok (i, rest)
    | none => .error (.unassigned (wordOfBytes hi lo))
  | _ => .error .truncated

/-- The byte at the lower address of a stored word. -/
def highByte (w : Word) : Byte := w.extractLsb' 8 8

/-- The byte at the higher address of a stored word. -/
def lowByte (w : Word) : Byte := w.extractLsb' 0 8

/-- The instruction word that the opcode table's bits `w` of a row of `nbits` bits stand for: every bit above them is 0. -/
def tableWord (nbits w : Nat) : Word := BitVec.ofNat 16 (w % 2 ^ nbits)

/-- What the decoder reads from an instruction whose bits are `w`, numbered as spec/opcode_table.json numbers them. -/
def decodeTableWord (nbits w : Nat) : Option Instr :=
  match decodeBytes [highByte (tableWord nbits w), lowByte (tableWord nbits w)] with
  | .ok (i, _) => some i
  | .error _ => none

/-! ### The encoder: the column "Encoding" of the instruction rules, `match | x<<8 | y<<4 | n` and its shorter forms -/

/-- `x << 8` -/
def putX (x : Reg) : Word := x.setWidth 16 <<< 8

/-- `y << 4` -/
def putY (y : Reg) : Word := y.setWidth 16 <<< 4

/-- The word of an instruction (R95). -/
def encode : Instr → Word
  | .cls => 0x00E0#16
  | .ret => 0x00EE#16
  | .jp nnn => 0x1000#16 ||| nnn.setWidth 16
  | .call nnn => 0x2000#16 ||| nnn.setWidth 16
  | .seVxNn x nn => 0x3000#16 ||| putX x ||| nn.setWidth 16
  | .sneVxNn x nn => 0x4000#16 ||| putX x ||| nn.setWidth 16
  | .seVxVy x y => 0x5000#16 ||| putX x ||| putY y
  | .ldVxNn x nn => 0x6000#16 ||| putX x ||| nn.setWidth 16
  | .addVxNn x nn => 0x7000#16 ||| putX x ||| nn.setWidth 16
  | .ldVxVy x y => 0x8000#16 ||| putX x ||| putY y
  | .orVxVy x y => 0x8001#16 ||| putX x ||| putY y
  | .andVxVy x y => 0x8002#16 ||| putX x ||| putY y
  | .xorVxVy x y => 0x8003#16 ||| putX x ||| putY y
  | .addVxVy x y => 0x8004#16 ||| putX x ||| putY y
  | .subVxVy x y => 0x8005#16 ||| putX x ||| putY y
  | .subnVxVy x y => 0x8007#16 ||| putX x ||| putY y
  | .shrVxVy x y => 0x8006#16 ||| putX x ||| putY y
  | .shlVxVy x y => 0x800E#16 ||| putX x ||| putY y
  | .sneVxVy x y => 0x9000#16 ||| putX x ||| putY y
  | .ldI nnn => 0xA000#16 ||| nnn.setWidth 16
  | .jpV0 nnn => 0xB000#16 ||| nnn.setWidth 16
  | .rnd x nn => 0xC000#16 ||| putX x ||| nn.setWidth 16
  | .drw x y n => 0xD000#16 ||| putX x ||| putY y ||| n.setWidth 16
  | .skp x => 0xE09E#16 ||| putX x
  | .sknp x => 0xE0A1#16 ||| putX x
  | .ldVxDt x => 0xF007#16 ||| putX x
  | .ldDtVx x => 0xF015#16 ||| putX x
  | .ldStVx x => 0xF018#16 ||| putX x
  | .addIVx x => 0xF01E#16 ||| putX x
  | .ldVxK x => 0xF00A#16 ||| putX x
  | .ldFVx x => 0xF029#16 ||| putX x
  | .ldBVx x => 0xF033#16 ||| putX x
  | .ldMemVx x => 0xF055#16 ||| putX x
  | .ldVxMem x => 0xF065#16 ||| putX x

/-- The two bytes of an instruction as memory holds them (R92). -/
def encodeBytes (i : Instr) : List Byte := [highByte (encode i), lowByte (encode i)]

/-! ### The opcode map as data -/

/-- One row of R95: a word belongs to it exactly when `w & mask = pat`. -/
structure OpcodeRow where
  /-- the row's mnemonic in spec/opcode_table.json -/
  mnemonic : String
  /-- the column `match` -/
  pat : Word
  /-- the column `mask` -/
  mask : Word
deriving DecidableEq, Repr

/-- A word selects the row (R94). -/
def OpcodeRow.selects (r : OpcodeRow) (w : Word) : Bool := w &&& r.mask == r.pat

/-- Rows 1 to 9 of R95. -/
def opcodeRowsA : List OpcodeRow :=
  [⟨"CLS", 0x00E0, 0xFFFF⟩, ⟨"RET", 0x00EE, 0xFFFF⟩, ⟨"JP_nnn", 0x1000, 0xF000⟩, ⟨"CALL_nnn", 0x2000, 0xF000⟩,
   ⟨"SE_Vx__nn", 0x3000, 0xF000⟩, ⟨"SNE_Vx__nn", 0x4000, 0xF000⟩, ⟨"SE_Vx__Vy", 0x5000, 0xF00F⟩,
   ⟨"LD_Vx__nn", 0x6000, 0xF000⟩, ⟨"ADD_Vx__nn", 0x7000, 0xF000⟩]

/-- Rows 10 to 23 of R95. -/
def opcodeRowsB : List OpcodeRow :=
  [⟨"LD_Vx__Vy", 0x8000, 0xF00F⟩, ⟨"OR_Vx__Vy", 0x8001, 0xF00F⟩, ⟨"AND_Vx__Vy", 0x8002, 0xF00F⟩,
   ⟨"XOR_Vx__Vy", 0x8003, 0xF00F⟩, ⟨"ADD_Vx__Vy", 0x8004, 0xF00F⟩, ⟨"SUB_Vx__Vy", 0x8005, 0xF00F⟩,
   ⟨"SUBN_Vx__Vy", 0x8007, 0xF00F⟩, ⟨"SHR_Vx__Vy", 0x8006, 0xF00F⟩, ⟨"SHL_Vx__Vy", 0x800E, 0xF00F⟩,
   ⟨"SNE_Vx__Vy", 0x9000, 0xF00F⟩, ⟨"LD_I__nnn", 0xA000, 0xF000⟩, ⟨"JP_V0__nnn", 0xB000, 0xF000⟩,
   ⟨"RND_Vx__nn", 0xC000, 0xF000⟩, ⟨"DRW_Vx__Vy__n", 0xD000, 0xF000⟩]

/-- Rows 24 to 34 of R95. -/
def opcodeRowsC : List OpcodeRow :=
  [⟨"SKP_Vx", 0xE09E, 0xF0FF⟩, ⟨"SKNP_Vx", 0xE0A1, 0xF0FF⟩, ⟨"LD_Vx__DT", 0xF007, 0xF0FF⟩,
   ⟨"LD_DT__Vx", 0xF015, 0xF0FF⟩, ⟨"LD_ST__Vx", 0xF018, 0xF0FF⟩, ⟨"ADD_I__Vx", 0xF01E, 0xF0FF⟩,
   ⟨"LD_Vx__K", 0xF00A, 0xF0FF⟩, ⟨"LD_F__Vx", 0xF029, 0xF0FF⟩, ⟨"LD_B__Vx", 0xF033, 0xF0FF⟩,
   ⟨"LD__I___Vx", 0xF055, 0xF0FF⟩, ⟨"LD_Vx___I", 0xF065, 0xF0FF⟩]

/-- The complete opcode map (R95), in the table's order. -/
def opcodeMap : List OpcodeRow := opcodeRowsA ++ opcodeRowsB ++ opcodeRowsC

/-- An instruction's mnemonic in spec/opcode_table.json. -/
def mnemonicOf : Instr → String
  | .cls => "CLS"
  | .ret => "RET"
  | .jp _ => "JP_nnn"
  | .call _ => "CALL_nnn"
  | .seVxNn _ _ => "SE_Vx__nn"
  | .sneVxNn _ _ => "SNE_Vx__nn"
  | .seVxVy _ _ => "SE_Vx__Vy"
  | .ldVxNn _ _ => "LD_Vx__nn"
  | .addVxNn _ _ => "ADD_Vx__nn"
  | .ldVxVy _ _ => "LD_Vx__Vy"
  | .orVxVy _ _ => "OR_Vx__Vy"
  | .andVxVy _ _ => "AND_Vx__Vy"
  | .xorVxVy _ _ => "XOR_Vx__Vy"
  | .addVxVy _ _ => "ADD_Vx__Vy"
  | .subVxVy _ _ => "SUB_Vx__Vy"
  | .subnVxVy _ _ => "SUBN_Vx__Vy"
  | .shrVxVy _ _ => "SHR_Vx__Vy"
  | .shlVxVy _ _ => "SHL_Vx__Vy"
  | .sneVxVy _ _ => "SNE_Vx__Vy"
  | .ldI _ => "LD_I__nnn"
  | .jpV0 _ => "JP_V0__nnn"
  | .rnd _ _ => "RND_Vx__nn"
  | .drw _ _ _ => "DRW_Vx__Vy__n"
  | .skp _ => "SKP_Vx"
  | .sknp _ => "SKNP_Vx"
  | .ldVxDt _ => "LD_Vx__DT"
  | .ldDtVx _ => "LD_DT__Vx"
  | .ldStVx _ => "LD_ST__Vx"
  | .addIVx _ => "ADD_I__Vx"
  | .ldVxK _ => "LD_Vx__K"
  | .ldFVx _ => "LD_F__Vx"
  | .ldBVx _ => "LD_B__Vx"
  | .ldMemVx _ => "LD__I___Vx"
  | .ldVxMem _ => "LD_Vx___I"

end Sys2Proof
end

