-- ==== Sys2Proof/Config.lean ====
section
/-!
DEFINITION. What an implementation of the block fixes (spec/00_scope.md R6), and the free values of the `rand` and
`fault_cause` ports.
A `Config` is carried unchanged in every State, so a statement about every state is about every configuration; one that
needs the constraints of R7 takes `Config.wf` (WellFormed.lean) as a premise.
-/

namespace Sys2Proof

/-- The parameters of R6, one field each, in the table's order. -/
structure Config where
  /-- MEM_SIZE, bytes of memory -/
  memSize : Nat
  /-- NREG, number of V registers, "fixed by DOC": `Config.wf` admits 16 only, the length of `State.v` -/
  nreg : Nat
  /-- STACK_CAP, entries of the return stack -/
  stackCap : Nat
  /-- ROWS of the display -/
  rows : Nat
  /-- COLS of the display -/
  cols : Nat
  /-- PROG_BASE, load address of a program and reset value of `pc` -/
  progBase : Nat
  /-- FONT_BASE, first byte of the font region -/
  fontBase : Nat
  /-- GLYPH_BYTES, bytes per glyph -/
  glyphBytes : Nat
  /-- FONT, the 80 font bytes, glyph `d` at `5 * d` (R9) -/
  font : List Byte
  /-- KEY_TTL_MS, the debounce time-to-live -/
  keyTtlMs : Nat
  /-- TIMER_HZ, the tick rate; timing only, no rule reads it (R256, R290) -/
  timerHz : Nat
  /-- INSTR_HZ, the instruction rate; timing only, no rule reads it. `none`: the spec leaves it OPEN -/
  instrHz : Option Nat
  /-- FRAME_HZ, the render rate; timing only, no rule reads it. `none`: the spec leaves it OPEN -/
  frameHz : Option Nat
  /-- KEY_WAIT_ALSO_LATCHES: a press that lifts a key wait is entered in the debounce set too (R258) -/
  keyWaitAlsoLatches : Bool
deriving DecidableEq, Repr

/-- `FONT` is 80 bytes, and the font region with it (R7, R9). -/
def Config.fontBytes : Nat := 80

/-- The default of FONT. PRESUMED: 93_implementation_defined.md G1, general knowledge and not in the source (log 9).
No rule depends on a byte of it. -/
def Config.defaultFont : List Byte :=
  [0xF0, 0x90, 0x90, 0x90, 0xF0] ++ [0x20, 0x60, 0x20, 0x20, 0x70] ++
  [0xF0, 0x10, 0xF0, 0x80, 0xF0] ++ [0xF0, 0x10, 0xF0, 0x10, 0xF0] ++
  [0x90, 0x90, 0xF0, 0x10, 0x10] ++ [0xF0, 0x80, 0xF0, 0x10, 0xF0] ++
  [0xF0, 0x80, 0xF0, 0x90, 0xF0] ++ [0xF0, 0x10, 0x20, 0x40, 0x40] ++
  [0xF0, 0x90, 0xF0, 0x90, 0xF0] ++ [0xF0, 0x90, 0xF0, 0x10, 0xF0] ++
  [0xF0, 0x90, 0xF0, 0x90, 0x90] ++ [0xE0, 0x90, 0xE0, 0x90, 0xE0] ++
  [0xF0, 0x80, 0x80, 0x80, 0xF0] ++ [0xE0, 0x90, 0x90, 0x90, 0xE0] ++
  [0xF0, 0x80, 0xF0, 0x80, 0xF0] ++ [0xF0, 0x80, 0xF0, 0x80, 0x80]

/-- The values R6 fixes for this hardware. -/
def Config.default : Config where
  memSize := 4096
  nreg := 16
  stackCap := 16
  rows := 32
  cols := 64
  progBase := 0x200
  fontBase := 0x050
  glyphBytes := 5
  font := Config.defaultFont
  keyTtlMs := 50
  timerHz := 60
  instrHz := none
  frameHz := none
  keyWaitAlsoLatches := false

/-- FREE VALUE: the byte of the `k`-th sample of the `rand` port, under no law (R11; log 5). No body: nothing can be
proved of a value of it. -/
opaque Config.randByte : Nat → Byte

/-- FREE VALUE: the 16 info bits of the `fault_cause` port where the spec states none: a cause that records no info, and an
address above 0xFFFF, which the port is too narrow for (R10, 60_exceptions.md R242; log 29, log 15). No body: nothing can
be proved of a value of it. -/
opaque Config.openFaultInfo : Nat → Word

end Sys2Proof
end

