-- ==== Sys2Proof/WellFormed.lean ====
section
/-!
DEFINITION. The checks the spec makes on what is given to the block: the parameters (spec/00_scope.md R6, R7, R9) and the
program image (spec/70_reset_and_hazards.md R272). An `Instr` needs no check: its operands have the types of its fields
(Syntax.lean), so every term is well-formed.
-/

namespace Sys2Proof

/-- `MEM_SIZE <= 65536`: addresses are 16 bits (R7). -/
def Config.memSizeOk (c : Config) : Bool := decide (c.memSize ≤ 65536)

/-- `PROG_BASE < MEM_SIZE` (R7). -/
def Config.progBaseOk (c : Config) : Bool := decide (c.progBase < c.memSize)

/-- `FONT_BASE + 80 <= PROG_BASE`: the font region does not overlap the program (R7). -/
def Config.fontBaseOk (c : Config) : Bool := decide (c.fontBase + Config.fontBytes ≤ c.progBase)

/-- `COLS >= 8` and `ROWS >= 15`: one wrap step of `SetPixel` is the modulo of Dxyn (R7, 90_conflicts.md C4). -/
def Config.gridOk (c : Config) : Bool := decide (8 ≤ c.cols) && decide (15 ≤ c.rows)

/-- `1 <= STACK_CAP` (R7). -/
def Config.stackCapOk (c : Config) : Bool := decide (1 ≤ c.stackCap)

/-- `FONT` is a sequence of 80 bytes (R9). -/
def Config.fontOk (c : Config) : Bool := decide (c.font.length = Config.fontBytes)

/-- NREG, GLYPH_BYTES, KEY_TTL_MS and TIMER_HZ have the values R6 calls fixed by the source. -/
def Config.fixedOk (c : Config) : Bool :=
  decide (c.nreg = 16) && decide (c.glyphBytes = 5) && decide (c.keyTtlMs = 50) && decide (c.timerHz = 60)

/-- The constraints on the parameters (R6, R7, R9). -/
def Config.wf (c : Config) : Bool :=
  c.memSizeOk && c.progBaseOk && c.fontBaseOk && c.gridOk && c.stackCapOk && c.fontOk && c.fixedOk

/-- The loader takes an image of at most `MEM_SIZE - PROG_BASE` bytes (R272). -/
def Config.imageFits (c : Config) (prog : List Byte) : Bool :=
  decide (prog.length ≤ c.memSize - c.progBase)

end Sys2Proof
end

