-- ==== Sys2Proof/Machine/State.lean ====
section
/-!
DEFINITION. The state of the block (spec/10_state.md R20) as plain data, the reasons a step can stop, and the state
after reset (spec/70_reset_and_hazards.md R270).
-/

namespace Sys2Proof.Machine

/-- The run state of the CPU agent (R45). `waitKey x` is also the armed wait slot (R44). -/
inductive Run where
  | running
  | waitKey (x : Reg)
  | halted
deriving DecidableEq, Repr

/-- A structural violation, the contents of the `fault` register (R46, 60_exceptions.md R242). -/
inductive HaltCause where
  /-- code 1: 00EE with an empty stack -/
  | stackUnderflow
  /-- code 2: 2nnn with a full stack -/
  | stackOverflow
  /-- code 3: an access at `addr >= MEM_SIZE`, the lowest offending address, a natural number (R242; log 15) -/
  | memOutOfBounds (addr : Nat)
deriving DecidableEq, Repr

/-- An entry of the debounce set: a key code and the value of `now` when the press was recorded (R40). -/
structure KeyEntry where
  code : Nibble
  time : Nat
deriving DecidableEq, Repr

/-- One step of one agent (00_scope.md R14), or the host's `reset` (R10, R271) with the program image of `load_prog`. -/
inductive Turn where
  /-- a `step_en` pulse: one instruction cycle of the CPU agent -/
  | cpu
  /-- a `tick` pulse: one step of the TIMER agent -/
  | tick
  /-- a `key_valid` pulse with `key_code`: one step of the KEY agent -/
  | key (code : Nibble)
  /-- one step of the TIME agent: `now` grows by `d` milliseconds -/
  | time (d : Nat)
  /-- the host asserts `reset` and supplies a program image (R272) -/
  | reset (prog : List Byte)
deriving DecidableEq, Repr

/-- Memory as the list of the bytes that differ from the reset contents, addresses rising (`Memory.wf`). -/
abbrev Memory := List Host.Cell

/-- The state. The first eleven fields are the tuple of R20; the other five are the inputs of the step functions that
R20 says are not state of the block, carried here because `step` has no other argument (log 1, log 2, log 3, log 5, log 8). -/
structure State where
  /-- V0..VF (R21) -/
  v : Vector Byte 16
  /-- the program counter (R26) -/
  pc : Word
  /-- I, the index register (R29) -/
  i : Word
  /-- DT, the delay timer (R32) -/
  dt : Byte
  /-- ST, the sound timer (R32) -/
  st : Byte
  /-- `mem`, as the bytes that differ from the reset contents (R47) -/
  mem : Memory
  /-- the return stack, the most recently pushed address last (R33) -/
  stack : List Word
  /-- the display grid, row-major, cell (x, y) at `y * COLS + x` (R35) -/
  disp : List Bool
  /-- the debounce set, oldest entry first (R40) -/
  keys : List KeyEntry
  /-- the run state (R45) -/
  run : Run
  /-- why the run halted (R46) -/
  fault : Option HaltCause
  /-- the parameters of R6 -/
  cfg : Config
  /-- the time input in milliseconds (R10, R262) -/
  now : Nat
  /-- which agent steps come next; when it is empty the CPU has the turn -/
  agenda : List Turn
  /-- how often the `rand` port has been sampled; index of the next free value -/
  draws : Nat
  /-- ghost log of the words reported as decode failures, latest first (R246) -/
  reports : List Word
deriving DecidableEq, Repr

/-- Why a step answers no next state. No instruction answers one of these: a structural violation is a next state with
`run = halted` (R241). -/
inductive Fault where
  /-- raised by the CPU's turn when `run = halted`: from HALTED the CPU agent has no step, ever (R241). Safe. -/
  | halted (cause : Option HaltCause)
  /-- raised by the CPU's turn when `run = waitKey x`: the CPU agent has no step until a KEY step or reset (R217 b,
  93_implementation_defined.md U12). Safe. -/
  | waitingForKey (x : Reg)
deriving DecidableEq, Repr

/-- Why a step is refused. -/
inductive Refusal where
  /-- an instruction without a meaning yet; raised by `exec`'s refused arms only (there are none). Safe. -/
  | notModelled (mnemonic : String)
  /-- raised by a `reset` turn whose image has `len` bytes, more than fit: the loader refuses it and the block is not
  started with it (R272). Safe. -/
  | imageTooLong (len : Nat)
deriving DecidableEq, Repr

/-- What a step answers. -/
abbrev Result := Host.Outcome State Fault Refusal

/-- The state after reset of a block with parameters `c` and no program image (R270). -/
def State.resetOf (c : Config) : State where
  v := Vector.replicate 16 0
  pc := BitVec.ofNat 16 c.progBase
  i := 0
  dt := 0
  st := 0
  mem := []
  stack := []
  disp := List.replicate (c.rows * c.cols) false
  keys := []
  run := .running
  fault := none
  cfg := c
  now := 0
  agenda := []
  draws := 0
  reports := []

/-- The machine right after reset, with the parameters of R6. -/
def State.reset : State := State.resetOf Config.default

end Sys2Proof.Machine
end

