-- ==== Sys2Proof/Machine/Ops.lean ====
section
/-!
DEFINITION. The named operations over memory, registers, the stack, the display and the keys (spec/10_state.md,
spec/20_memory.md), raising a structural violation (spec/60_exceptions.md R241), and reporting a decode failure (R246).
-/

namespace Sys2Proof.Machine

/-! ### Memory (20_memory.md) -/

/-- What an address that memory does not list reads as: the reset contents without a program, `FONT` in the font region
and 0 elsewhere (R47, R270). -/
def Memory.unlisted (c : Config) (a : Nat) : Byte :=
  if c.fontBase ≤ a ∧ a < c.fontBase + Config.fontBytes then c.font.getD (a - c.fontBase) 0 else 0

/-- The listed byte at an address. -/
def Memory.find : Memory → Nat → Option Byte
  | [], _ => none
  | (b, u) :: m, a => if b = a then some u else Memory.find m a

/-- The byte at an address. -/
def Memory.read (c : Config) (m : Memory) (a : Nat) : Byte :=
  (Memory.find m a).getD (Memory.unlisted c a)

/-- `mem[a] <- v`, keeping the canonical form: the entry is in its place in the rising order, and there is none if `v`
is what the unlisted address reads as. -/
def Memory.write (c : Config) : Memory → Nat → Byte → Memory
  | [], a, v => if v = Memory.unlisted c a then [] else [(a, v)]
  | (b, u) :: m, a, v =>
    if a < b then (if v = Memory.unlisted c a then (b, u) :: m else (a, v) :: (b, u) :: m)
    else if a = b then (if v = Memory.unlisted c a then m else (a, v) :: m)
    else (b, u) :: Memory.write c m a v

/-- Every address of a memory is above `lo`, and they rise strictly. -/
def Memory.rising : Option Nat → Memory → Bool
  | _, [] => true
  | lo, (b, _) :: m => (match lo with | none => true | some l => decide (l < b)) && Memory.rising (some b) m

/-- The canonical form: addresses strictly rising, every address in memory, no entry equal to what an unlisted address
reads as. Equal memories are then equal data. -/
def Memory.wf (c : Config) (m : Memory) : Bool :=
  Memory.rising none m && m.all fun e => decide (e.1 < c.memSize) && !(e.2 == Memory.unlisted c e.1)

/-- Writing bytes at rising addresses from `a`. -/
def Memory.writeBytes (c : Config) (m : Memory) (a : Nat) : List Byte → Memory
  | [] => m
  | b :: bs => Memory.writeBytes c (Memory.write c m a b) (a + 1) bs

/-- The byte of the state's memory at an address. -/
def State.byte (s : State) (a : Nat) : Byte := Memory.read s.cfg s.mem a

/-- The state with bytes written to memory from address `a` up. -/
def State.store (s : State) (a : Nat) (bs : List Byte) : State :=
  { s with mem := Memory.writeBytes s.cfg s.mem a bs }

/-- `MemRead(addr, 1)`: the offending address, or the byte (R64). -/
def memRead (s : State) (a : Nat) : Except Nat Byte :=
  if s.cfg.memSize ≤ a then .error a else .ok (s.byte a)

/-- `MemRead(addr, 2)`: the big-endian fetch, the lower address checked first, `addr + 1` without wrap (R66). -/
def fetchWord (s : State) : Except Nat Word :=
  match memRead s s.pc.toNat with
  | .error a => .error a
  | .ok hi =>
    match memRead s (s.pc.toNat + 1) with
    | .error a => .error a
    | .ok lo => .ok (wordOfBytes hi lo)

/-! ### Registers -/

/-- `V[x]` (R21). -/
def State.reg (s : State) (x : Reg) : Byte := s.v[x.toNat]'(x.isLt)

/-- `V[x] <- b`. No register is hardwired (R21). -/
def State.setReg (s : State) (x : Reg) (b : Byte) : State :=
  { s with v := s.v.set x.toNat b x.isLt }

/-- `pc <- t` -/
def State.setPc (s : State) (t : Word) : State := { s with pc := t }

/-- `I <- t` -/
def State.setI (s : State) (t : Word) : State := { s with i := t }

/-- `DT <- b` -/
def State.setDt (s : State) (b : Byte) : State := { s with dt := b }

/-- `ST <- b` -/
def State.setSt (s : State) (b : Byte) : State := { s with st := b }

/-- `stack <- st` -/
def State.setStack (s : State) (st : List Word) : State := { s with stack := st }

/-- `disp <- d` -/
def State.setDisp (s : State) (d : List Bool) : State := { s with disp := d }

/-- `run <- r` -/
def State.setRun (s : State) (r : Run) : State := { s with run := r }

/-- The advance the fetch makes, modulo 65536 (R27, R90), and `skip` (R120). -/
def State.advance (s : State) : State := s.setPc (s.pc + 2#16)

/-- `if c then skip` (R120). -/
def State.skipIf (s : State) (c : Bool) : State := if c then s.advance else s

/-! ### Structural violations and decode failures (60_exceptions.md) -/

/-- `raise F(info)`: the cause is recorded and the run halts; nothing else changes (R241, R243). Nothing is saved and
control goes nowhere, and there is no return from it but reset (R245). -/
def State.raise (s : State) (f : HaltCause) : State := { s with fault := some f, run := .halted }

/-- `report DecodeFailure(w)` (R246). -/
def State.report (s : State) (w : Word) : State := { s with reports := w :: s.reports }

/-! ### The stack (10_state.md R30, R31) -/

/-- `StackPush(a)`, or none when it must raise StackOverflow (R30). -/
def stackPush (c : Config) (st : List Word) (a : Word) : Option (List Word) :=
  if st.length < c.stackCap then some (st ++ [a]) else none

/-- `StackPop()`: the most recently pushed address and the rest, or none when it must raise StackUnderflow (R31). -/
def stackPop (st : List Word) : Option (Word × List Word) :=
  match st.getLast? with
  | some a => some (a, st.dropLast)
  | none => none

/-! ### The display (10_state.md R35 to R37) -/

/-- Cell (x, y) (R35). -/
def State.cell (s : State) (x y : Nat) : Bool := s.disp.getD (y * s.cfg.cols + x) false

/-- `SetPixel(x, y)`: one wrap correction, XOR, and whether the cell went from set to unset (R36). Outside R36's
precondition, which Dxyn never leaves under R7, nothing is toggled that is not in the grid (log 20). -/
def setPixel (c : Config) (d : List Bool) (x y : Nat) : List Bool × Bool :=
  let x' := if c.cols ≤ x then x - c.cols else x
  let y' := if c.rows ≤ y then y - c.rows else y
  let old := d.getD (y' * c.cols + x') false
  (d.set (y' * c.cols + x') (!old), old)

/-- `ClearDisplay()` (R37): every cell becomes 0, the grid keeps its dimensions. -/
def clearDisplay (d : List Bool) : List Bool := d.map fun _ => false

/-- The cells under the 1 bits of one sprite row `b` drawn at (x0, y): bit 7 is the leftmost column, and each column
wraps on its own (R193). -/
def rowPixels (c : Config) (x0 y : Nat) (b : Byte) : List (Nat × Nat) :=
  ((List.range 8).filter fun k => b.getLsbD (7 - k)).map fun k => ((x0 + k) % c.cols, y % c.rows)

/-- The cells under the 1 bits of a sprite, rows top to bottom from row `y` (R193). -/
def spritePixels (c : Config) (x0 y : Nat) : List Byte → List (Nat × Nat)
  | [] => []
  | b :: bs => rowPixels c x0 y b ++ spritePixels c x0 (y + 1) bs

/-- Toggling cells one after the other; the flag says whether some cell went from set to unset (R193, `hit`). -/
def togglePixels (c : Config) : List (Nat × Nat) → List Bool × Bool → List Bool × Bool
  | [], acc => acc
  | (x, y) :: ps, (d, hit) =>
    let (d', off) := setPixel c d x y
    togglePixels c ps (d', hit || off)

/-- Drawing a sprite at origin (x0, y0): the new grid and the collision (R193). -/
def drawSprite (c : Config) (d : List Bool) (x0 y0 : Nat) (bytes : List Byte) : List Bool × Bool :=
  togglePixels c (spritePixels c x0 y0 bytes) (d, false)

/-! ### The keys (10_state.md R40 to R43) -/

/-- An entry is live while its age does not exceed the TTL (R42). -/
def KeyEntry.live (c : Config) (now : Nat) (e : KeyEntry) : Bool := decide (now - e.time ≤ c.keyTtlMs)

/-- `KeysAdd(c)` (R41). -/
def State.keysAdd (s : State) (c : Nibble) : State := { s with keys := s.keys ++ [⟨c, s.now⟩] }

/-- `KeysContains(c)`, first effect: every stale entry is evicted, of every code (R42). -/
def State.keysEvict (s : State) : State := { s with keys := s.keys.filter (KeyEntry.live s.cfg s.now) }

/-- `KeysContains(c)`, the answer: some live entry has the code; the whole byte is compared, so a code above 15 is never
found (R42). -/
def State.keyPressed (s : State) (c : Byte) : Bool :=
  s.keys.any fun e => e.live s.cfg s.now && e.code.setWidth 8 == c

/-! ### The `rand` port -/

/-- The byte the `rand` port gives next: a free value (R11). -/
def State.randNext (s : State) : Byte := Config.randByte s.draws

/-- The port has been sampled once more: the next draw is another free value (R11). -/
def State.countDraw (s : State) : State := { s with draws := s.draws + 1 }

end Sys2Proof.Machine
end

