-- ==== Sys2Proof/Machine/Operands.lean ====
section
/-!
DEFINITION. The operand forms of the instructions: immediates (spec/30_encoding.md R96) and the one data addressing
mode, index-relative (spec/42_index_memory.md R176, spec/20_memory.md R67, R68). A register operand is `State.reg`.
-/

namespace Sys2Proof.Machine

/-- `nnn` zero-extended to 16 bits: an absolute byte address (R96). -/
def absAddr (nnn : Addr12) : Word := nnn.setWidth 16

/-- `zext_16` of a byte (R16). -/
def zextByte (b : Byte) : Word := b.setWidth 16

/-- `I + k`, computed in the natural numbers (R67). -/
def State.indexAddr (s : State) (k : Nat) : Nat := s.i.toNat + k

/-- The lowest out-of-bounds address of a range from `I` that leaves memory (R68). -/
def State.oobAddr (s : State) : Nat := max s.i.toNat s.cfg.memSize

/-- An instruction that reaches `mem[I .. I+last]` checks its whole range before it changes anything (R68). -/
def withIndexRange (s : State) (last : Nat) (t : State) : Result :=
  if s.cfg.memSize ≤ s.indexAddr last then .next (s.raise (.memOutOfBounds s.oobAddr)) else .next t

/-- The bytes `mem[I .. I+n-1]`. -/
def State.indexBytes (s : State) (n : Nat) : List Byte := (List.range n).map fun k => s.byte (s.indexAddr k)

/-- The registers `V[0..=x]` in rising order. -/
def State.regsUpTo (s : State) (x : Reg) : List Byte :=
  (List.range (x.toNat + 1)).map fun k => s.reg (BitVec.ofNat 4 k)

/-- `V[k] <- b` for the bytes of a list, from register number `k` up. -/
def State.loadRegs (s : State) (k : Nat) : List Byte → State
  | [] => s
  | b :: bs => (s.setReg (BitVec.ofNat 4 k) b).loadRegs (k + 1) bs

/-- The decimal digits of a byte: hundreds, tens, ones (R173). -/
def bcdDigits (b : Byte) : List Byte :=
  [BitVec.ofNat 8 (b.toNat / 100), BitVec.ofNat 8 (b.toNat / 10 % 10), BitVec.ofNat 8 (b.toNat % 10)]

/-- The address of the font glyph for the low nibble of a byte (R172). -/
def glyphAddr (c : Config) (b : Byte) : Word :=
  BitVec.ofNat 16 (c.fontBase + c.glyphBytes * (b.toNat % 16))

end Sys2Proof.Machine
end

