-- ==== Sys2Proof/Machine/Flags.lean ====
section
/-!
DEFINITION. The flag computations (spec/10_state.md R23, R24). VF is the flag output and an ordinary register.
-/

namespace Sys2Proof.Machine

/-- VF is V[15] (R21). -/
def vF : Reg := 15#4

/-- A flag as VF holds it: exactly 0 or 1 (R24). -/
def flagByte (f : Bool) : Byte := if f then 1#8 else 0#8

/-- The carry of an 8-bit addition (R142, R147). -/
def carryOut (a b : Byte) : Bool := decide (255 < a.toNat + b.toNat)

/-- NOT borrow of `a - b` (R142, R148, R150). -/
def notBorrow (a b : Byte) : Bool := decide (b.toNat ≤ a.toNat)

/-- The bit a right shift by one drops (R149). -/
def shiftedOutRight (a : Byte) : Bool := a.getLsbD 0

/-- The bit a left shift by one drops (R151). -/
def shiftedOutLeft (a : Byte) : Bool := a.getLsbD 7

/-- The new `I` exceeds the 12-bit address space (R171). -/
def indexOverflow (t : Word) : Bool := decide (0x0FFF < t.toNat)

/-- `VF <- f`. -/
def State.setFlag (s : State) (f : Bool) : State := s.setReg vF (flagByte f)

/-- `V[x]` is written, then VF: with `x = 15` the flag is what VF holds afterwards (R24, R153; log 10). -/
def State.writeWithFlag (s : State) (x : Reg) (b : Byte) (f : Bool) : State := (s.setReg x b).setFlag f

end Sys2Proof.Machine
end

