-- ==== Sys2Proof/Machine/Agents.lean ====
section
/-!
DEFINITION. The steps of the agents beside the CPU (spec/60_exceptions.md R255, R258, R262) and the host's reset with a
program image (spec/70_reset_and_hazards.md R270 to R273).
-/

namespace Sys2Proof.Machine

/-- One decrement of a timer: a timer at 0 stays 0 (R255). -/
def countDown (t : Byte) : Byte := if t = 0#8 then 0#8 else t - 1#8

/-- One TIMER step, enabled whatever `run` is (R255). -/
def timerTick (s : State) : State := (s.setDt (countDown s.dt)).setSt (countDown s.st)

/-- One KEY step with a code (R258): a press lifts a pending wait, else it is entered in the debounce set. -/
def keyEvent (c : Nibble) (s : State) : State :=
  match s.run with
  | .waitKey x =>
    let t := (s.setReg x (c.setWidth 8)).setRun .running
    if s.cfg.keyWaitAlsoLatches then t.keysAdd c else t
  | .running => s.keysAdd c
  | .halted => s.keysAdd c

/-- One TIME step (R262). -/
def timePasses (d : Nat) (s : State) : State := { s with now := s.now + d }

/-- The state of the block after `reset` with an image (R270, R272, R273). The parameters, the time input, the agenda,
the count of draws and the host's log of reports belong to the environment and stay (log 21). -/
def rebooted (prog : List Byte) (s : State) : State :=
  { State.resetOf s.cfg with
    mem := Memory.writeBytes s.cfg [] s.cfg.progBase prog
    now := s.now
    agenda := s.agenda
    draws := s.draws
    reports := s.reports }

/-- `reset` with an image; a longer image than fits is refused by the loader (R272; log 25). -/
def hostReset (prog : List Byte) (s : State) : Result :=
  if s.cfg.imageFits prog then .next (rebooted prog s) else .refused (.imageTooLong prog.length)

end Sys2Proof.Machine
end

