-- ==== Sys2Proof/Machine/Alu.lean ====
section
/-!
DEFINITION. Register loads and the ALU (spec/41_alu.md). All source registers are read first, then `V[x]` is written,
then VF where the instruction has a flag (R153).
-/

namespace Sys2Proof.Machine

/-- 6xnn (R140). -/
def execLdVxNn (x : Reg) (nn : Byte) (s : State) : Result := .next (s.setReg x nn)

/-- 7xnn (R141): no flag is written, even on wrap-around. -/
def execAddVxNn (x : Reg) (nn : Byte) (s : State) : Result := .next (s.setReg x (s.reg x + nn))

/-- 8xy0 (R143). -/
def execLdVxVy (x y : Reg) (s : State) : Result := .next (s.setReg x (s.reg y))

/-- 8xy1 (R144). -/
def execOrVxVy (x y : Reg) (s : State) : Result := .next (s.setReg x (s.reg x ||| s.reg y))

/-- 8xy2 (R145). -/
def execAndVxVy (x y : Reg) (s : State) : Result := .next (s.setReg x (s.reg x &&& s.reg y))

/-- 8xy3 (R146). -/
def execXorVxVy (x y : Reg) (s : State) : Result := .next (s.setReg x (s.reg x ^^^ s.reg y))

/-- 8xy4 (R147): VF is the carry, always written (90_conflicts.md C1). -/
def execAddVxVy (x y : Reg) (s : State) : Result :=
  .next (s.writeWithFlag x (s.reg x + s.reg y) (carryOut (s.reg x) (s.reg y)))

/-- 8xy5 (R148). -/
def execSubVxVy (x y : Reg) (s : State) : Result :=
  .next (s.writeWithFlag x (s.reg x - s.reg y) (notBorrow (s.reg x) (s.reg y)))

/-- 8xy7 (R150). -/
def execSubnVxVy (x y : Reg) (s : State) : Result :=
  .next (s.writeWithFlag x (s.reg y - s.reg x) (notBorrow (s.reg y) (s.reg x)))

/-- 8xy6 (R149): the shifted value is `V[y]`. -/
def execShrVxVy (x y : Reg) (s : State) : Result :=
  .next (s.writeWithFlag x (s.reg y >>> 1) (shiftedOutRight (s.reg y)))

/-- 8xyE (R151): the shifted value is `V[y]`. -/
def execShlVxVy (x y : Reg) (s : State) : Result :=
  .next (s.writeWithFlag x (s.reg y <<< 1) (shiftedOutLeft (s.reg y)))

/-- Cxnn with the byte the `rand` port gives (R152). -/
def rndWith (r : Byte) (x : Reg) (nn : Byte) (s : State) : State := (s.setReg x (r &&& nn)).countDraw

/-- Cxnn (R152): the draw is a free value (log 5). -/
def execRnd (x : Reg) (nn : Byte) (s : State) : Result := .next (rndWith s.randNext x nn s)

end Sys2Proof.Machine
end

