-- ==== Sys2Proof/Machine/ControlFlow.lean ====
section
/-!
DEFINITION. Control transfer (spec/40_control_flow.md). On entry `pc` is already the address of the instruction plus 2
(spec/30_encoding.md R90). A transfer outside memory is no fault of its own: the next fetch raises it (R129).
-/

namespace Sys2Proof.Machine

/-- 00EE (R123). -/
def execRet (s : State) : Result :=
  match stackPop s.stack with
  | some (t, rest) => .next ((s.setStack rest).setPc t)
  | none => .next (s.raise .stackUnderflow)

/-- 1nnn (R121). -/
def execJp (nnn : Addr12) (s : State) : Result := .next (s.setPc (absAddr nnn))

/-- 2nnn (R122): the pushed value is the full 16-bit `pc`. -/
def execCall (nnn : Addr12) (s : State) : Result :=
  match stackPush s.cfg s.stack s.pc with
  | some st => .next ((s.setStack st).setPc (absAddr nnn))
  | none => .next (s.raise .stackOverflow)

/-- 3xnn (R125). -/
def execSeVxNn (x : Reg) (nn : Byte) (s : State) : Result := .next (s.skipIf (s.reg x == nn))

/-- 4xnn (R126). -/
def execSneVxNn (x : Reg) (nn : Byte) (s : State) : Result := .next (s.skipIf (s.reg x != nn))

/-- 5xy0 (R127). -/
def execSeVxVy (x y : Reg) (s : State) : Result := .next (s.skipIf (s.reg x == s.reg y))

/-- 9xy0 (R128). -/
def execSneVxVy (x y : Reg) (s : State) : Result := .next (s.skipIf (s.reg x != s.reg y))

/-- Bnnn (R124): the offset register is always V0, and the sum is not masked to 12 bits. -/
def execJpV0 (nnn : Addr12) (s : State) : Result :=
  .next (s.setPc (absAddr nnn + zextByte (s.reg 0#4)))

end Sys2Proof.Machine
end

