-- ==== Sys2Proof/Machine/Display.lean ====
section
/-!
DEFINITION. The XOR framebuffer (spec/43_display.md).
-/

namespace Sys2Proof.Machine

/-- 00E0 (R190). -/
def execCls (s : State) : Result := .next (s.setDisp (clearDisplay s.disp))

/-- The state after drawing the `n` bytes from `I` at (V[x] mod COLS, V[y] mod ROWS): the coordinates are read before
VF is written, and VF is always written (R193, R194). -/
def drawn (x y : Reg) (n : Nat) (s : State) : State :=
  let r := drawSprite s.cfg s.disp ((s.reg x).toNat % s.cfg.cols) ((s.reg y).toNat % s.cfg.rows) (s.indexBytes n)
  (s.setDisp r.1).setFlag r.2

/-- Dxyn (R193); with `n = 0` it touches no memory and cannot fault (R68, R194 a). -/
def execDrw (x y : Reg) (n : Nibble) (s : State) : Result :=
  if n = 0#4 then .next (drawn x y 0 s) else withIndexRange s (n.toNat - 1) (drawn x y n.toNat s)

end Sys2Proof.Machine
end

