-- ==== Sys2Proof/Machine/IndexMemory.lean ====
section
/-!
DEFINITION. The index register and memory (spec/42_index_memory.md). Fx55 and Fx65 leave `I` unchanged (R176).
-/

namespace Sys2Proof.Machine

/-- Annn (R170). -/
def execLdI (nnn : Addr12) (s : State) : Result := .next (s.setI (absAddr nnn))

/-- Fx1E (R171): the sum is modulo 65536, the test is on the new `I`, and VF is set-only (90_conflicts.md C2; log 11). -/
def execAddIVx (x : Reg) (s : State) : Result :=
  let t := s.i + zextByte (s.reg x)
  if indexOverflow t then .next ((s.setI t).setFlag true) else .next (s.setI t)

/-- Fx29 (R172). -/
def execLdFVx (x : Reg) (s : State) : Result := .next (s.setI (glyphAddr s.cfg (s.reg x)))

/-- Fx33 (R173). -/
def execLdBVx (x : Reg) (s : State) : Result :=
  withIndexRange s 2 (s.store (s.indexAddr 0) (bcdDigits (s.reg x)))

/-- Fx55 (R174). -/
def execLdMemVx (x : Reg) (s : State) : Result :=
  withIndexRange s x.toNat (s.store (s.indexAddr 0) (s.regsUpTo x))

/-- Fx65 (R175). -/
def execLdVxMem (x : Reg) (s : State) : Result :=
  withIndexRange s x.toNat (s.loadRegs 0 (s.indexBytes (x.toNat + 1)))

end Sys2Proof.Machine
end

