-- ==== Sys2Proof/Machine/KeysTimers.lean ====
section
/-!
DEFINITION. Keys and timers (spec/44_keys_timers.md).
-/

namespace Sys2Proof.Machine

/-- Ex9E (R210): the answer is taken, stale entries are evicted. -/
def execSkp (x : Reg) (s : State) : Result := .next (s.keysEvict.skipIf (s.keyPressed (s.reg x)))

/-- ExA1 (R211). -/
def execSknp (x : Reg) (s : State) : Result := .next (s.keysEvict.skipIf (!s.keyPressed (s.reg x)))

/-- Fx0A (R212): arms the wait slot; the KEY agent's step that lifts it writes `V[x]` (Agents.lean). -/
def execLdVxK (x : Reg) (s : State) : Result := .next (s.setRun (.waitKey x))

/-- Fx07 (R213). -/
def execLdVxDt (x : Reg) (s : State) : Result := .next (s.setReg x s.dt)

/-- Fx15 (R214). -/
def execLdDtVx (x : Reg) (s : State) : Result := .next (s.setDt (s.reg x))

/-- Fx18 (R215). -/
def execLdStVx (x : Reg) (s : State) : Result := .next (s.setSt (s.reg x))

end Sys2Proof.Machine
end

