-- ==== Sys2Proof/Machine/Cycle.lean ====
section
/-!
DEFINITION. The CPU agent's step (spec/30_encoding.md R90), whose turn it is (spec/00_scope.md R14; log 2), and placing
an instruction word where the next step fetches it.
-/

namespace Sys2Proof.Machine

/-- One instruction cycle with the fetched word: `pc` advances by 2 before decode and execute; a word of no row is
reported and skipped (R90, R246). -/
def runWord (w : Word) (s : State) : Result :=
  match decode w with
  | some i => exec i s.advance
  | none => .next (s.advance.report w)

/-- `CpuStep` (R90), enabled exactly when `run = RUNNING`. A fetch fault leaves `pc` where it was (R243). -/
def cpuStep (s : State) : Result :=
  match s.run with
  | .waitKey x => .fault (.waitingForKey x)
  | .halted => .fault (.halted s.fault)
  | .running =>
    match fetchWord s with
    | .error a => .next (s.raise (.memOutOfBounds a))
    | .ok w => runWord w s

/-- The step of the agent that has the turn (R14). -/
def agentStep (t : Turn) (s : State) : Result :=
  match t with
  | .cpu => cpuStep s
  | .tick => .next (timerTick s)
  | .key c => .next (keyEvent c s)
  | .time d => .next (timePasses d s)
  | .reset prog => hostReset prog s

/-- Whose turn it is: the head of the agenda, the CPU when it is empty (log 2). -/
def State.turn (s : State) : Turn := s.agenda.headD .cpu

/-- The state with the turn taken off the agenda. -/
def State.popTurn (s : State) : State := { s with agenda := s.agenda.tail }

/-- One step of the machine. -/
def machineStep (s : State) : Result := agentStep s.turn s.popTurn

/-- The state with the word `w` at the address the next fetch reads, the CPU running and having the turn. If `pc` has no
two bytes of memory to point at, it is set to PROG_BASE first (log 27). -/
def placeWord (s : State) (w : Word) : State :=
  let p : Word := if s.pc.toNat + 1 < s.cfg.memSize then s.pc else BitVec.ofNat 16 s.cfg.progBase
  { s with
    pc := p
    mem := Memory.writeBytes s.cfg s.mem p.toNat [highByte w, lowByte w]
    run := .running
    agenda := if s.turn = .cpu then s.agenda else .cpu :: s.agenda }

end Sys2Proof.Machine
end

