-- ==== Sys2Proof/Machine/Ports.lean ====
section
/-!
DEFINITION. The output ports of the block (spec/00_scope.md R10) as functions of the state. The port `disp` is the field
`disp`, readable between two steps (R13).
-/

namespace Sys2Proof.Machine

/-- `sound_active = (ST > 0)` (10_state.md R32, 60_exceptions.md R257). -/
def State.soundActive (s : State) : Bool := decide (0 < s.st.toNat)

/-- `halted` (R241). -/
def State.haltedPort (s : State) : Bool := decide (s.run = .halted)

/-- The two code bits of `fault_cause`: the codes of R242. What they show when there is no fault the spec leaves open: 0,
the one code that is no cause. DESIGN CHOICE (log 29). -/
def causeCode : Option HaltCause → BitVec 2
  | none => 0
  | some .stackUnderflow => 1
  | some .stackOverflow => 2
  | some (.memOutOfBounds _) => 3

/-- The 16 info bits of `fault_cause` (R10): the recorded address of a `MemOutOfBounds` (R242). The spec states no bits for
no fault, for StackUnderflow and for StackOverflow, which record no info, nor for an address above 0xFFFF, which does not
fit; there they are a free value. DESIGN CHOICE (log 29 for the causes without info, log 15 for the wide address). -/
def causeInfo : Option HaltCause → Word
  | none => Config.openFaultInfo 0
  | some .stackUnderflow => Config.openFaultInfo 1
  | some .stackOverflow => Config.openFaultInfo 2
  | some (.memOutOfBounds a) => if a < 65536 then BitVec.ofNat 16 a else Config.openFaultInfo a

/-- `fault_cause`: the code and the info, 2 + 16 bits. -/
def State.faultCause (s : State) : BitVec 2 × Word := (causeCode s.fault, causeInfo s.fault)

/-- `decode_fail` and `decode_fail_word` during the step from `s` to `t`: a pulse with the word, for that step only
(R246). -/
def decodeFailPulse (s t : State) : Option Word :=
  if s.reports.length < t.reports.length then t.reports.head? else none

end Sys2Proof.Machine
end

