-- ==== Sys2Proof/Safety.lean ====
section
/-!
DEFINITION. What counts as a legal state and a safe run, in the terms the statements use: the invariant of the machine,
the end of a run (spec/70_reset_and_hazards.md R276), and what a step keeps.
-/

namespace Sys2Proof.Machine

/-- `fault` and `run` agree: a cause is recorded exactly in HALTED (R46), and an out-of-bounds address is one (R242). -/
def haltAgrees (s : State) : Bool :=
  match s.run, s.fault with
  | .halted, some (.memOutOfBounds a) => decide (s.cfg.memSize ≤ a)
  | .halted, some _ => true
  | .halted, none => false
  | _, f => f.isNone

/-- The invariant: the parameters meet R7, memory is in canonical form, the stack is within its capacity (R33), the grid
has ROWS x COLS cells (R35), no key press lies in the future (R262), and `fault` agrees with `run` (R46). -/
def State.inv (s : State) : Bool :=
  s.cfg.wf && Memory.wf s.cfg s.mem && decide (s.stack.length ≤ s.cfg.stackCap) &&
  decide (s.disp.length = s.cfg.rows * s.cfg.cols) && s.keys.all (fun e => decide (e.time ≤ s.now)) && haltAgrees s

/-- The run has ended (R276): RUNNING at a jump to itself. HALTED and WAIT_KEY are not ends of a run. -/
def State.atEnd (s : State) : Bool :=
  decide (s.run = .running) &&
  (match fetchWord s with | .ok w => w == 0x1000#16 ||| s.pc | .error _ => false) && decide (s.pc.toNat ≤ 0x0FFF)

/-- A state in which no structural violation has happened (R241). -/
def State.safe (s : State) : Bool := !s.haltedPort

/-! ### Frames: what a step keeps -/

/-- The parts of the state beside the general registers and memory, to name what a frame leaves out. -/
inductive Part where
  | pc | i | dt | st | stack | disp | keys | run | fault | cfg | now | agenda | draws | reports
deriving DecidableEq, Repr

/-- Every part but the named ones is the same in `s` and `t`. -/
def KeepsParts (except : List Part) (s t : State) : Prop :=
  (.pc ∉ except → t.pc = s.pc) ∧ (.i ∉ except → t.i = s.i) ∧ (.dt ∉ except → t.dt = s.dt) ∧
  (.st ∉ except → t.st = s.st) ∧ (.stack ∉ except → t.stack = s.stack) ∧ (.disp ∉ except → t.disp = s.disp) ∧
  (.keys ∉ except → t.keys = s.keys) ∧ (.run ∉ except → t.run = s.run) ∧ (.fault ∉ except → t.fault = s.fault) ∧
  (.cfg ∉ except → t.cfg = s.cfg) ∧ (.now ∉ except → t.now = s.now) ∧ (.agenda ∉ except → t.agenda = s.agenda) ∧
  (.draws ∉ except → t.draws = s.draws) ∧ (.reports ∉ except → t.reports = s.reports)

/-- Every general register but the named ones holds what it held. -/
def KeepsRegs (except : List Reg) (s t : State) : Prop := ∀ r : Reg, r ∉ except → t.reg r = s.reg r

/-- Every byte of memory reads as before. -/
def KeepsMem (s t : State) : Prop := ∀ a : Nat, t.byte a = s.byte a

/-- Every byte of memory outside the `len` bytes from `lo` reads as before. -/
def KeepsMemOutside (lo len : Nat) (s t : State) : Prop := ∀ a : Nat, a < lo ∨ lo + len ≤ a → t.byte a = s.byte a

/-- The step has ended in a structural violation: the cause is recorded, the run is halted, and nothing else has
changed (R241, R243). -/
def HaltsWith (f : HaltCause) (s t : State) : Prop :=
  t.fault = some f ∧ t.run = .halted ∧ KeepsRegs [] s t ∧ KeepsMem s t ∧ KeepsParts [.fault, .run] s t

end Sys2Proof.Machine
end

