-- ==== Sys2Proof/Certificates/Slice0/Obligations.lean ====
section
/-!
DEFINITION. The statements about the machine. Each docstring names the rules of spec/ it formalises. `exec i s` is given
the state whose `pc` is already past the instruction (spec/30_encoding.md R90), so "pc unchanged" there means that
execution goes on with the next instruction.
-/

open Sys2Proof Sys2Proof.Machine

/-! ### Words used in the statements -/

/-- Some row `r < n` and column `k < 8` of the sprite at `I` has a 1 bit that falls on cell (cx, cy), bit 7 leftmost and
every coordinate wrapped on its own (spec/43_display.md R193). -/
def Sys2Proof.Machine.SpriteCovers (s : State) (x0 y0 n cx cy : Nat) : Prop :=
  ∃ r < n, ∃ k < 8, (s.byte (s.i.toNat + r)).getLsbD (7 - k) = true ∧
    cx = (x0 + k) % s.cfg.cols ∧ cy = (y0 + r) % s.cfg.rows

/-- Some press of the key whose code is the byte `c` was recorded at most KEY_TTL_MS before `now` (spec/10_state.md R42). -/
def Sys2Proof.Machine.PressedWithinTtl (s : State) (c : Byte) : Prop :=
  ∃ e ∈ s.keys, e.code.toNat = c.toNat ∧ s.now - e.time ≤ s.cfg.keyTtlMs

/-- `t` is `s` but for the parts named, with every register and every byte of memory the same. -/
def Sys2Proof.Machine.OnlyParts (ps : List Part) (s t : State) : Prop :=
  KeepsParts ps s t ∧ KeepsRegs [] s t ∧ KeepsMem s t

/-- `t` is `s` but for the registers named, with every other part and every byte of memory the same. -/
def Sys2Proof.Machine.OnlyRegs (rs : List Reg) (s t : State) : Prop :=
  KeepsParts [] s t ∧ KeepsRegs rs s t ∧ KeepsMem s t

/-! ### Encoding -/

/-- Words written out from the encodings of R95 decode to their instructions, one or more of every family. -/
def Obligations.WordsFromTheTableDecode : Prop :=
  decode 0x00E0 = some .cls ∧ decode 0x22F0 = some (.call 0x2F0) ∧ decode 0x332A = some (.seVxNn 3 0x2A) ∧
  decode 0x8127 = some (.subnVxVy 1 2) ∧ decode 0x8126 = some (.shrVxVy 1 2) ∧ decode 0xB300 = some (.jpV0 0x300) ∧
  decode 0xD7A5 = some (.drw 7 0xA 5) ∧ decode 0xE5A1 = some (.sknp 5) ∧ decode 0xF20A = some (.ldVxK 2) ∧
  decode 0xF955 = some (.ldMemVx 9) ∧ decode 0x0000 = none ∧ decode 0x5121 = none

/-- Decode and encode agree, on words and on the bytes in memory, for every instruction and every operand. -/
def Obligations.DecodeOfEncodeIsIdentity : Prop :=
  ∀ (i : Instr) (rest : List Byte),
    decode (encode i) = some i ∧ decodeBytes (encodeBytes i ++ rest) = .ok (i, rest)

/-- Each word has one meaning: an instruction's word is the word it was decoded from. -/
def Obligations.EncodeOfDecodeIsIdentity : Prop :=
  ∀ (w : Word) (i : Instr), decode w = some i → encode i = w

/-- R94: a word selects the row of R95 whose `w & mask = match`, at most one row matches, and a word of no row has no
instruction. -/
def Obligations.DecodeSelectsTheMatchingRow : Prop :=
  ∀ w : Word,
    (opcodeMap.filter fun r => r.selects w).length ≤ 1 ∧
    (∀ i, decode w = some i → ∃ r ∈ opcodeMap, w &&& r.mask = r.pat ∧ r.mnemonic = mnemonicOf i) ∧
    (decode w = none ↔ ∀ r ∈ opcodeMap, w &&& r.mask ≠ r.pat)

/-- R97 (its table, without the counts), R216, R218: the words that match no row, by top nibble. -/
def Obligations.DecodeFailsExactlyOnTheUnassignedGroups : Prop :=
  ∀ w : Word, decode w = none ↔
    (opField w = 0x0#4 ∧ w ≠ 0x00E0#16 ∧ w ≠ 0x00EE#16) ∨
    (opField w = 0x5#4 ∧ nField w ≠ 0#4) ∨
    (opField w = 0x8#4 ∧ (nField w).toNat ∈ [0x8, 0x9, 0xA, 0xB, 0xC, 0xD, 0xF]) ∨
    (opField w = 0x9#4 ∧ nField w ≠ 0#4) ∨
    (opField w = 0xE#4 ∧ nnField w ≠ 0x9E#8 ∧ nnField w ≠ 0xA1#8) ∨
    (opField w = 0xF#4 ∧ (nnField w).toNat ∉ [0x07, 0x0A, 0x15, 0x18, 0x1E, 0x29, 0x33, 0x55, 0x65])

/-! ### Reset -/

/-- R270: what reset leaves, for the parameters of R6. The zeros are the spec's own decision D7 (log 4). The value 0 of
`now` is the model's choice (log 3) and is not stated. -/
def Obligations.ResetValues : Prop :=
  (∀ r : Reg, State.reset.reg r = 0) ∧ State.reset.pc = 0x200 ∧ State.reset.i = 0 ∧ State.reset.dt = 0 ∧
  State.reset.st = 0 ∧ State.reset.stack = [] ∧ (∀ x y : Nat, State.reset.cell x y = false) ∧
  State.reset.disp.length = 32 * 64 ∧ State.reset.keys = [] ∧ State.reset.run = .running ∧
  State.reset.fault = none ∧
  ∀ a : Nat, State.reset.byte a =
    if 0x050 ≤ a ∧ a < 0x0A0 then Config.default.font.getD (a - 0x050) 0 else 0

/-- R272, R273: a program image that fits is copied verbatim to PROG_BASE and the font to FONT_BASE, every other byte is
0, and the block starts; a longer image is refused and the block is not started. -/
def Obligations.ResetLoadsProgramAndFont : Prop :=
  ∀ (s : State) (prog : List Byte), s.cfg.wf = true → s.turn = .reset prog →
    (s.cfg.progBase + prog.length ≤ s.cfg.memSize →
      ∃ t, step s = .next t ∧
        (∀ k < prog.length, t.byte (s.cfg.progBase + k) = prog.getD k 0) ∧
        (∀ k < 80, t.byte (s.cfg.fontBase + k) = s.cfg.font.getD k 0) ∧
        (∀ a, (a < s.cfg.progBase ∨ s.cfg.progBase + prog.length ≤ a) →
          (a < s.cfg.fontBase ∨ s.cfg.fontBase + 80 ≤ a) → t.byte a = 0) ∧
        t.pc.toNat = s.cfg.progBase ∧ t.run = .running) ∧
    (s.cfg.memSize < s.cfg.progBase + prog.length → step s = .refused (.imageTooLong prog.length))

/-- R270, R271: reset in any state, HALTED and WAIT_KEY among them, puts every element to its reset value, memory holding
the image from PROG_BASE, the font and else 0. The zeros are decision D7 (log 4). That the parameters, the time, the rest
of the agenda, the count of draws and the reports stay is the model's choice (log 21). -/
def Obligations.ResetFromAnyState : Prop :=
  ∀ (s : State) (prog : List Byte), s.turn = .reset prog → prog.length ≤ s.cfg.memSize - s.cfg.progBase →
    ∃ t, step s = .next t ∧ (∀ r : Reg, t.reg r = 0) ∧ t.pc = BitVec.ofNat 16 s.cfg.progBase ∧ t.i = 0 ∧ t.dt = 0 ∧
      t.st = 0 ∧ t.stack = [] ∧
      t.disp.length = s.cfg.rows * s.cfg.cols ∧ (∀ x y : Nat, t.cell x y = false) ∧ t.keys = [] ∧
      t.run = .running ∧ t.fault = none ∧
      (∀ a : Nat, t.byte a =
        if s.cfg.progBase ≤ a ∧ a < s.cfg.progBase + prog.length then prog.getD (a - s.cfg.progBase) 0
        else if s.cfg.fontBase ≤ a ∧ a < s.cfg.fontBase + 80 then s.cfg.font.getD (a - s.cfg.fontBase) 0 else 0) ∧
      t.cfg = s.cfg ∧ t.now = s.now ∧ t.agenda = s.agenda.tail ∧ t.draws = s.draws ∧ t.reports = s.reports

/-! ### The invariant -/

/-- The state after reset meets the invariant, for every configuration that meets R7. -/
def Obligations.ResetMeetsTheInvariant : Prop :=
  Config.default.wf = true ∧ ∀ c : Config, c.wf = true → (State.resetOf c).inv = true

/-- Every step of every agent keeps the invariant: memory canonical and within MEM_SIZE, at most STACK_CAP return
addresses (R33), ROWS x COLS cells (R35), no press in the future (R262), a fault recorded exactly in HALTED (R46). -/
def Obligations.StepKeepsTheInvariant : Prop :=
  ∀ s t : State, s.inv = true → step s = .next t → t.inv = true

/-- The canonical form is canonical: two memories that read the same everywhere are the same data. -/
def Obligations.MemoriesReadingAlikeAreEqual : Prop :=
  ∀ (c : Config) (m m' : Memory), Memory.wf c m = true → Memory.wf c m' = true →
    (∀ a < c.memSize, Memory.read c m a = Memory.read c m' a) → m = m'

/-! ### The instruction cycle and faults -/

/-- R90: when the CPU has the turn in RUNNING and the two bytes at `pc` are an instruction, the step is that instruction
executed with `pc` advanced by 2 and the turn taken. -/
def Obligations.StepRunsTheDecodedInstruction : Prop :=
  ∀ (s : State) (i : Instr), s.turn = .cpu → s.run = .running → s.pc.toNat + 1 < s.cfg.memSize →
    decodeBytes [s.byte s.pc.toNat, s.byte (s.pc.toNat + 1)] = .ok (i, []) →
    step s = exec i { s with pc := s.pc + 2#16, agenda := s.agenda.tail }

/-- R246: a word of no row is reported with `decode_fail` for that step and skipped: `pc` is `a + 2`, the run stays
RUNNING and nothing else changes. -/
def Obligations.DecodeFailureIsReportedAndSkipped : Prop :=
  ∀ (s : State) (w : Word), s.turn = .cpu → s.run = .running → fetchWord s = .ok w → decode w = none →
    ∃ t, step s = .next t ∧ t.pc = s.pc + 2#16 ∧ t.run = .running ∧ decodeFailPulse s t = some w ∧
      t.reports = w :: s.reports ∧ OnlyParts [.pc, .agenda, .reports] s t

/-- R66: the fetch is big-endian, and it raises MemOutOfBounds with the lowest offending address, without wrap; then
`pc` has not advanced (R243). -/
def Obligations.FetchIsBigEndianAndBoundsChecked : Prop :=
  ∀ s : State,
    (s.pc.toNat + 1 < s.cfg.memSize →
      ∃ w : Word, fetchWord s = .ok w ∧ w.toNat = 256 * (s.byte s.pc.toNat).toNat + (s.byte (s.pc.toNat + 1)).toNat) ∧
    (s.turn = .cpu → s.run = .running → s.cfg.memSize ≤ s.pc.toNat →
      ∃ t, step s = .next t ∧ HaltsWith (.memOutOfBounds s.pc.toNat) { s with agenda := s.agenda.tail } t) ∧
    (s.turn = .cpu → s.run = .running → s.pc.toNat < s.cfg.memSize → s.cfg.memSize ≤ s.pc.toNat + 1 →
      ∃ t, step s = .next t ∧ HaltsWith (.memOutOfBounds (s.pc.toNat + 1)) { s with agenda := s.agenda.tail } t)

/-- R45, R241, R217 b: the CPU agent has a step only in RUNNING. That its turn then stops with a named fault is the model's
choice (log 6, log 7). -/
def Obligations.CpuHasNoStepOutsideRunning : Prop :=
  ∀ s : State, s.turn = .cpu →
    (s.run = .halted → step s = .fault (.halted s.fault)) ∧
    (∀ x : Reg, s.run = .waitKey x → step s = .fault (.waitingForKey x))

/-- R45: the transitions of the run state. -/
def Obligations.RunStateTransitions : Prop :=
  State.reset.run = .running ∧
  ∀ s t : State, step s = .next t →
    (s.turn = .cpu → s.run = .running) ∧
    (∀ prog, s.turn = .reset prog → t.run = .running) ∧
    ((∀ prog, s.turn ≠ .reset prog) →
      (s.run = .halted → t.run = .halted) ∧
      (∀ x, s.run = .waitKey x → (∃ c, s.turn = .key c ∧ t.run = .running) ∨ ((∀ c, s.turn ≠ .key c) ∧ t.run = .waitKey x)) ∧
      (s.run = .running →
        t.run = .running ∨
        (∃ x w, s.turn = .cpu ∧ fetchWord s = .ok w ∧ decode w = some (.ldVxK x) ∧ t.run = .waitKey x) ∨
        (s.turn = .cpu ∧ t.run = .halted ∧ t.fault ≠ none)))

/-- R46: `fault` is written once, when `run` becomes HALTED, and never cleared except by reset; its codes, and the address
it holds, as the port shows it where its 16 bits can (R10; above 0xFFFF the port shows a free value, log 15). -/
def Obligations.FaultIsWrittenOnceAtTheHalt : Prop :=
  State.reset.fault = none ∧
  causeCode (some .stackUnderflow) = 1 ∧ causeCode (some .stackOverflow) = 2 ∧
  (∀ a, causeCode (some (.memOutOfBounds a)) = 3 ∧ (a ≤ 0xFFFF → (causeInfo (some (.memOutOfBounds a))).toNat = a)) ∧
  ∀ s t : State, s.inv = true → (∀ prog, s.turn ≠ .reset prog) → step s = .next t →
    (s.fault ≠ none → t.fault = s.fault) ∧
    (t.fault ≠ s.fault → s.fault = none ∧ s.run = .running ∧ t.run = .halted)

/-- R243: precision. A step that ends in HALTED has changed `fault` and `run` only; `pc` is `a` after a fetch fault and
`a + 2` after a fault of the execute phase. -/
def Obligations.HaltingStepChangesNothingElse : Prop :=
  ∀ s t : State, s.turn = .cpu → s.run = .running → step s = .next t → t.run = .halted →
    OnlyParts [.pc, .run, .fault, .agenda] s t ∧
    ((∃ a, fetchWord s = .error a) → t.pc = s.pc) ∧
    ((∃ w, fetchWord s = .ok w) → t.pc = s.pc + 2#16)

/-- R242, R244: which instruction raises which cause, and when. -/
def Obligations.CauseOfAnExecuteFault : Prop :=
  ∀ (i : Instr) (s t : State), s.run = .running → exec i s = .next t → t.run = .halted →
    (t.fault = some .stackUnderflow ∧ i = .ret ∧ s.stack = []) ∨
    (t.fault = some .stackOverflow ∧ (∃ nnn, i = .call nnn) ∧ s.cfg.stackCap ≤ s.stack.length) ∨
    (t.fault = some (.memOutOfBounds (max s.i.toNat s.cfg.memSize)) ∧
      ((∃ x y n, i = .drw x y n ∧ 0 < n.toNat ∧ s.cfg.memSize ≤ s.i.toNat + n.toNat - 1) ∨
       (∃ x, i = .ldBVx x ∧ s.cfg.memSize ≤ s.i.toNat + 2) ∨
       (∃ x, (i = .ldMemVx x ∨ i = .ldVxMem x) ∧ s.cfg.memSize ≤ s.i.toNat + x.toNat)))

/-- R240: no instruction stops the model: each answers a next state, the one of its effect or the halt of a structural
violation. -/
def Obligations.EveryInstructionAnswersANextState : Prop :=
  ∀ (i : Instr) (s : State), ∃ t, exec i s = .next t

/-! ### Control transfer -/

/-- R121: 1nnn. -/
def Obligations.JumpSetsPc : Prop :=
  ∀ (nnn : Addr12) (s : State), decode (0x1000#16 ||| nnn.setWidth 16) = some (.jp nnn) ∧
    ∃ t, exec (.jp nnn) s = .next t ∧ t.pc.toNat = nnn.toNat ∧ OnlyParts [.pc] s t

/-- R122: 2nnn pushes the address of the instruction after the call and jumps; with a full stack it raises
StackOverflow, and then nothing is pushed and `pc` stays. -/
def Obligations.CallPushesAndJumpsOrOverflows : Prop :=
  ∀ (nnn : Addr12) (s : State), decode (0x2000#16 ||| nnn.setWidth 16) = some (.call nnn) ∧
    (s.stack.length < s.cfg.stackCap →
      ∃ t, exec (.call nnn) s = .next t ∧ t.stack = s.stack ++ [s.pc] ∧ t.pc.toNat = nnn.toNat ∧
        OnlyParts [.pc, .stack] s t) ∧
    (s.cfg.stackCap ≤ s.stack.length → ∃ t, exec (.call nnn) s = .next t ∧ HaltsWith .stackOverflow s t)

/-- R123: 00EE pops the most recently pushed address into `pc`; with an empty stack it raises StackUnderflow. -/
def Obligations.ReturnPopsOrUnderflows : Prop :=
  ∀ s : State, decode 0x00EE#16 = some .ret ∧
    (∀ (below : List Word) (a : Word), s.stack = below ++ [a] →
      ∃ t, exec .ret s = .next t ∧ t.pc = a ∧ t.stack = below ∧ OnlyParts [.pc, .stack] s t) ∧
    (s.stack = [] → ∃ t, exec .ret s = .next t ∧ HaltsWith .stackUnderflow s t)

/-- R30, R31: a call with room and the return after it come back to the instruction after the call with the stack as it
was. -/
def Obligations.ReturnUndoesCall : Prop :=
  ∀ (nnn : Addr12) (s : State), s.stack.length < s.cfg.stackCap →
    ∃ t u, exec (.call nnn) s = .next t ∧ exec .ret t = .next u ∧ u.pc = s.pc ∧ u.stack = s.stack ∧
      OnlyParts [] s u

/-- R124: Bnnn adds V0, whatever bits 11:8 of the word are, and does not mask to 12 bits. -/
def Obligations.JumpWithOffsetAddsV0 : Prop :=
  ∀ (nnn : Addr12) (s : State), decode (0xB000#16 ||| nnn.setWidth 16) = some (.jpV0 nnn) ∧
    ∃ t, exec (.jpV0 nnn) s = .next t ∧ t.pc.toNat = nnn.toNat + (s.reg 0#4).toNat ∧ OnlyParts [.pc] s t

/-- R125, R126, R120: the skips on an immediate. -/
def Obligations.ImmediateSkips : Prop :=
  ∀ (x : Reg) (nn : Byte) (s : State),
    decode (0x3000#16 ||| x.setWidth 16 <<< 8 ||| nn.setWidth 16) = some (.seVxNn x nn) ∧
    decode (0x4000#16 ||| x.setWidth 16 <<< 8 ||| nn.setWidth 16) = some (.sneVxNn x nn) ∧
    (∃ t, exec (.seVxNn x nn) s = .next t ∧ OnlyParts [.pc] s t ∧
      (s.reg x = nn → t.pc = s.pc + 2#16) ∧ (s.reg x ≠ nn → t.pc = s.pc)) ∧
    (∃ t, exec (.sneVxNn x nn) s = .next t ∧ OnlyParts [.pc] s t ∧
      (s.reg x ≠ nn → t.pc = s.pc + 2#16) ∧ (s.reg x = nn → t.pc = s.pc))

/-- R127, R128, R120: the skips on two registers. -/
def Obligations.RegisterSkips : Prop :=
  ∀ (x y : Reg) (s : State),
    decode (0x5000#16 ||| x.setWidth 16 <<< 8 ||| y.setWidth 16 <<< 4) = some (.seVxVy x y) ∧
    decode (0x9000#16 ||| x.setWidth 16 <<< 8 ||| y.setWidth 16 <<< 4) = some (.sneVxVy x y) ∧
    (∃ t, exec (.seVxVy x y) s = .next t ∧ OnlyParts [.pc] s t ∧
      (s.reg x = s.reg y → t.pc = s.pc + 2#16) ∧ (s.reg x ≠ s.reg y → t.pc = s.pc)) ∧
    (∃ t, exec (.sneVxVy x y) s = .next t ∧ OnlyParts [.pc] s t ∧
      (s.reg x ≠ s.reg y → t.pc = s.pc + 2#16) ∧ (s.reg x = s.reg y → t.pc = s.pc))

/-! ### Register loads and the ALU -/

/-- R140, R141: the immediate forms; VF is written only as the destination. -/
def Obligations.ImmediateLoadAndAdd : Prop :=
  ∀ (x : Reg) (nn : Byte) (s : State),
    decode (0x6000#16 ||| x.setWidth 16 <<< 8 ||| nn.setWidth 16) = some (.ldVxNn x nn) ∧
    decode (0x7000#16 ||| x.setWidth 16 <<< 8 ||| nn.setWidth 16) = some (.addVxNn x nn) ∧
    (∃ t, exec (.ldVxNn x nn) s = .next t ∧ t.reg x = nn ∧ OnlyRegs [x] s t) ∧
    (∃ t, exec (.addVxNn x nn) s = .next t ∧ (t.reg x).toNat = ((s.reg x).toNat + nn.toNat) % 256 ∧ OnlyRegs [x] s t)

/-- R143 to R146: the move and the three logical operations, bit by bit; none writes a flag. -/
def Obligations.MoveAndLogic : Prop :=
  ∀ (x y : Reg) (s : State),
    decode (0x8000#16 ||| x.setWidth 16 <<< 8 ||| y.setWidth 16 <<< 4) = some (.ldVxVy x y) ∧
    decode (0x8001#16 ||| x.setWidth 16 <<< 8 ||| y.setWidth 16 <<< 4) = some (.orVxVy x y) ∧
    decode (0x8002#16 ||| x.setWidth 16 <<< 8 ||| y.setWidth 16 <<< 4) = some (.andVxVy x y) ∧
    decode (0x8003#16 ||| x.setWidth 16 <<< 8 ||| y.setWidth 16 <<< 4) = some (.xorVxVy x y) ∧
    (∃ t, exec (.ldVxVy x y) s = .next t ∧ OnlyRegs [x] s t ∧ t.reg x = s.reg y) ∧
    (∃ t, exec (.orVxVy x y) s = .next t ∧ OnlyRegs [x] s t ∧
      ∀ k < 8, (t.reg x).getLsbD k = ((s.reg x).getLsbD k || (s.reg y).getLsbD k)) ∧
    (∃ t, exec (.andVxVy x y) s = .next t ∧ OnlyRegs [x] s t ∧
      ∀ k < 8, (t.reg x).getLsbD k = ((s.reg x).getLsbD k && (s.reg y).getLsbD k)) ∧
    (∃ t, exec (.xorVxVy x y) s = .next t ∧ OnlyRegs [x] s t ∧
      ∀ k < 8, (t.reg x).getLsbD k = ((s.reg x).getLsbD k ^^ (s.reg y).getLsbD k))

/-- R147: 8xy4. With `x = 15` the carry is what VF holds (decision D13, log 10). -/
def Obligations.AddSetsSumAndCarry : Prop :=
  ∀ (x y : Reg) (s : State),
    decode (0x8004#16 ||| x.setWidth 16 <<< 8 ||| y.setWidth 16 <<< 4) = some (.addVxVy x y) ∧
    ∃ t, exec (.addVxVy x y) s = .next t ∧ OnlyRegs [x, vF] s t ∧
      (x ≠ vF → (t.reg x).toNat = ((s.reg x).toNat + (s.reg y).toNat) % 256) ∧
      (t.reg vF).toNat = if (s.reg x).toNat + (s.reg y).toNat > 255 then 1 else 0

/-- R148, R150: 8xy5 and 8xy7, the difference modulo 256 and the NOT borrow of the operands before the instruction. With
`x = 15` the flag is what VF holds (decision D13, log 10). -/
def Obligations.SubtractionsSetDifferenceAndNotBorrow : Prop :=
  ∀ (x y : Reg) (s : State),
    decode (0x8005#16 ||| x.setWidth 16 <<< 8 ||| y.setWidth 16 <<< 4) = some (.subVxVy x y) ∧
    decode (0x8007#16 ||| x.setWidth 16 <<< 8 ||| y.setWidth 16 <<< 4) = some (.subnVxVy x y) ∧
    (∃ t, exec (.subVxVy x y) s = .next t ∧ OnlyRegs [x, vF] s t ∧
      (x ≠ vF → ((t.reg x).toNat : Int) = ((s.reg x).toNat - (s.reg y).toNat : Int) % 256) ∧
      (t.reg vF).toNat = if (s.reg x).toNat ≥ (s.reg y).toNat then 1 else 0) ∧
    (∃ t, exec (.subnVxVy x y) s = .next t ∧ OnlyRegs [x, vF] s t ∧
      (x ≠ vF → ((t.reg x).toNat : Int) = ((s.reg y).toNat - (s.reg x).toNat : Int) % 256) ∧
      (t.reg vF).toNat = if (s.reg y).toNat ≥ (s.reg x).toNat then 1 else 0)

/-- R149, R151: 8xy6 and 8xyE shift `V[y]` by one bit, VF is the bit shifted out. With `x = 15` the bit is what VF holds
(decision D13, log 10). -/
def Obligations.ShiftsSetResultAndBitOut : Prop :=
  ∀ (x y : Reg) (s : State),
    decode (0x8006#16 ||| x.setWidth 16 <<< 8 ||| y.setWidth 16 <<< 4) = some (.shrVxVy x y) ∧
    decode (0x800E#16 ||| x.setWidth 16 <<< 8 ||| y.setWidth 16 <<< 4) = some (.shlVxVy x y) ∧
    (∃ t, exec (.shrVxVy x y) s = .next t ∧ OnlyRegs [x, vF] s t ∧
      (x ≠ vF → (t.reg x).toNat = (s.reg y).toNat / 2) ∧ (t.reg vF).toNat = (s.reg y).toNat % 2) ∧
    (∃ t, exec (.shlVxVy x y) s = .next t ∧ OnlyRegs [x, vF] s t ∧
      (x ≠ vF → (t.reg x).toNat = (s.reg y).toNat * 2 % 256) ∧ (t.reg vF).toNat = (s.reg y).toNat / 128)

/-- R154: which of these instructions write VF as a flag, to exactly 0 or 1, and which leave it alone. -/
def Obligations.AluFlagWrites : Prop :=
  ∀ (i : Instr) (x y : Reg) (nn : Byte) (s t : State), exec i s = .next t →
    (i ∈ [.addVxVy x y, .subVxVy x y, .shrVxVy x y, .subnVxVy x y, .shlVxVy x y] → t.reg vF = 0 ∨ t.reg vF = 1) ∧
    (i ∈ [.ldVxNn x nn, .addVxNn x nn, .ldVxVy x y, .orVxVy x y, .andVxVy x y, .xorVxVy x y, .rnd x nn] → x ≠ vF →
      t.reg vF = s.reg vF)

/-- R152, R11: Cxnn with the byte `r` the `rand` port gives writes `r & nn`, for every `r`; each execution samples the
port once more; every value without a bit outside `nn` is possible, and no other. -/
def Obligations.RandomIsMasked : Prop :=
  ∀ (x : Reg) (nn : Byte) (s : State),
    decode (0xC000#16 ||| x.setWidth 16 <<< 8 ||| nn.setWidth 16) = some (.rnd x nn) ∧
    exec (.rnd x nn) s = .next (rndWith s.randNext x nn s) ∧
    (∀ r : Byte, (rndWith r x nn s).reg x = r &&& nn ∧ (rndWith r x nn s).reg x &&& ~~~nn = 0 ∧
      (rndWith r x nn s).draws = s.draws + 1 ∧
      KeepsParts [.draws] s (rndWith r x nn s) ∧ KeepsRegs [x] s (rndWith r x nn s) ∧ KeepsMem s (rndWith r x nn s)) ∧
    (∀ v : Byte, v &&& ~~~nn = 0 → ∃ r : Byte, (rndWith r x nn s).reg x = v)

/-! ### Index register and memory -/

/-- R170, R172: Annn, and Fx29 with the glyph of the low nibble of `V[x]`, GLYPH_BYTES being 5 (R6); neither accesses
memory. -/
def Obligations.IndexLoads : Prop :=
  ∀ (nnn : Addr12) (x : Reg) (s : State),
    decode (0xA000#16 ||| nnn.setWidth 16) = some (.ldI nnn) ∧
    decode (0xF029#16 ||| x.setWidth 16 <<< 8) = some (.ldFVx x) ∧
    (s.cfg.wf = true → s.cfg.glyphBytes = 5) ∧
    (∃ t, exec (.ldI nnn) s = .next t ∧ t.i.toNat = nnn.toNat ∧ OnlyParts [.i] s t) ∧
    (∃ t, exec (.ldFVx x) s = .next t ∧ OnlyParts [.i] s t ∧
      t.i.toNat = (s.cfg.fontBase + s.cfg.glyphBytes * ((s.reg x).toNat % 16)) % 65536)

/-- R171: Fx1E. VF is set to 1 when the new 16-bit `I` is above 0x0FFF and is not written otherwise (decision D14). -/
def Obligations.IndexAddSetsFlagOnly : Prop :=
  ∀ (x : Reg) (s : State),
    decode (0xF01E#16 ||| x.setWidth 16 <<< 8) = some (.addIVx x) ∧
    ∃ t, exec (.addIVx x) s = .next t ∧ t.i.toNat = (s.i.toNat + (s.reg x).toNat) % 65536 ∧
      KeepsParts [.i] s t ∧ KeepsMem s t ∧ KeepsRegs [vF] s t ∧
      (0x0FFF < t.i.toNat → t.reg vF = 1) ∧ (t.i.toNat ≤ 0x0FFF → t.reg vF = s.reg vF)

/-- R173, R68: Fx33 stores the three decimal digits of `V[x]` at `I`, `I + 1`, `I + 2` and nothing else; a range that
leaves memory raises MemOutOfBounds and nothing is written. -/
def Obligations.BcdStoresThreeDigits : Prop :=
  ∀ (x : Reg) (s : State), Memory.wf s.cfg s.mem = true →
    decode (0xF033#16 ||| x.setWidth 16 <<< 8) = some (.ldBVx x) ∧
    (s.i.toNat + 2 < s.cfg.memSize →
      ∃ t, exec (.ldBVx x) s = .next t ∧
        (t.byte (s.indexAddr 0)).toNat = (s.reg x).toNat / 100 ∧
        (t.byte (s.indexAddr 1)).toNat = (s.reg x).toNat / 10 % 10 ∧
        (t.byte (s.indexAddr 2)).toNat = (s.reg x).toNat % 10 ∧
        KeepsMemOutside (s.indexAddr 0) 3 s t ∧ KeepsRegs [] s t ∧ KeepsParts [] s t) ∧
    (s.cfg.memSize ≤ s.i.toNat + 2 →
      ∃ t, exec (.ldBVx x) s = .next t ∧ HaltsWith (.memOutOfBounds (max s.i.toNat s.cfg.memSize)) s t)

/-- R174, R68: Fx55 stores `V[0..=x]` at `I` up and nothing else, `I` unchanged; a range that leaves memory raises
MemOutOfBounds and nothing is written. -/
def Obligations.BlockStore : Prop :=
  ∀ (x : Reg) (s : State), Memory.wf s.cfg s.mem = true →
    decode (0xF055#16 ||| x.setWidth 16 <<< 8) = some (.ldMemVx x) ∧
    (s.i.toNat + x.toNat < s.cfg.memSize →
      ∃ t, exec (.ldMemVx x) s = .next t ∧
        (∀ r : Reg, r.toNat ≤ x.toNat → t.byte (s.indexAddr r.toNat) = s.reg r) ∧
        KeepsMemOutside (s.indexAddr 0) (x.toNat + 1) s t ∧ KeepsRegs [] s t ∧ KeepsParts [] s t) ∧
    (s.cfg.memSize ≤ s.i.toNat + x.toNat →
      ∃ t, exec (.ldMemVx x) s = .next t ∧ HaltsWith (.memOutOfBounds (max s.i.toNat s.cfg.memSize)) s t)

/-- R175, R68: Fx65 loads `V[0..=x]` from `I` up; registers above `x`, `I` and memory are unchanged; a range that leaves
memory raises MemOutOfBounds and no register changes. -/
def Obligations.BlockLoad : Prop :=
  ∀ (x : Reg) (s : State),
    decode (0xF065#16 ||| x.setWidth 16 <<< 8) = some (.ldVxMem x) ∧
    (s.i.toNat + x.toNat < s.cfg.memSize →
      ∃ t, exec (.ldVxMem x) s = .next t ∧
        (∀ r : Reg, r.toNat ≤ x.toNat → t.reg r = s.byte (s.i.toNat + r.toNat)) ∧
        (∀ r : Reg, x.toNat < r.toNat → t.reg r = s.reg r) ∧ KeepsMem s t ∧ KeepsParts [] s t) ∧
    (s.cfg.memSize ≤ s.i.toNat + x.toNat →
      ∃ t, exec (.ldVxMem x) s = .next t ∧ HaltsWith (.memOutOfBounds (max s.i.toNat s.cfg.memSize)) s t)

/-- R77: a store to the next instruction is seen by the very next fetch. -/
def Obligations.StoreIsSeenByTheNextFetch : Prop :=
  ∀ (x : Reg) (s : State), Memory.wf s.cfg s.mem = true → 1 ≤ x.toNat → s.i.toNat + x.toNat < s.cfg.memSize →
    s.pc = s.i → ∃ t, exec (.ldMemVx x) s = .next t ∧ fetchWord t = .ok (wordOfBytes (s.reg 0#4) (s.reg 1#4))

/-! ### The display -/

/-- R190, R37: 00E0. -/
def Obligations.ClearMakesEveryCellZero : Prop :=
  ∀ s : State, decode 0x00E0#16 = some .cls ∧
    ∃ t, exec .cls s = .next t ∧ t.disp.length = s.disp.length ∧ (∀ j : Nat, t.disp.getD j false = false) ∧
      OnlyParts [.disp] s t

/-- R36: `SetPixel` within its precondition wraps each coordinate once, toggles that cell and no other, and answers
whether the cell was set; twice at one coordinate restores the grid. -/
def Obligations.SetPixelTogglesOneCell : Prop :=
  ∀ (c : Config) (d : List Bool) (x y : Nat), d.length = c.rows * c.cols → x < 2 * c.cols → y < 2 * c.rows →
    (∀ cx < c.cols, ∀ cy < c.rows,
      (cx = x % c.cols ∧ cy = y % c.rows →
        (setPixel c d x y).2 = d.getD (cy * c.cols + cx) false ∧
        (setPixel c d x y).1.getD (cy * c.cols + cx) false = !d.getD (cy * c.cols + cx) false) ∧
      (¬(cx = x % c.cols ∧ cy = y % c.rows) →
        (setPixel c d x y).1.getD (cy * c.cols + cx) false = d.getD (cy * c.cols + cx) false)) ∧
    (setPixel c d x y).1.length = c.rows * c.cols ∧
    setPixel c (setPixel c d x y).1 x y = (d, !d.getD ((y % c.rows) * c.cols + x % c.cols) false)

/-- R193, R194, R195 c: Dxyn. Each cell under a 1 bit of the sprite holds the opposite of what it held and every other
cell holds what it held; VF is 1 exactly when some covered cell held 1 before. The coordinates are read before VF is
written. `n = 0` touches no memory; a sprite that leaves memory raises MemOutOfBounds and nothing is drawn. -/
def Obligations.DrawXorsTheSprite : Prop :=
  ∀ (x y : Reg) (n : Nibble) (s : State), s.cfg.wf = true → s.disp.length = s.cfg.rows * s.cfg.cols →
    decode (0xD000#16 ||| x.setWidth 16 <<< 8 ||| y.setWidth 16 <<< 4 ||| n.setWidth 16) = some (.drw x y n) ∧
    ((n = 0#4 ∨ s.i.toNat + n.toNat - 1 < s.cfg.memSize) →
      ∃ t, exec (.drw x y n) s = .next t ∧ t.disp.length = s.disp.length ∧
        (∀ cx < s.cfg.cols, ∀ cy < s.cfg.rows,
          (SpriteCovers s ((s.reg x).toNat % s.cfg.cols) ((s.reg y).toNat % s.cfg.rows) n.toNat cx cy →
            t.cell cx cy = !s.cell cx cy) ∧
          (¬SpriteCovers s ((s.reg x).toNat % s.cfg.cols) ((s.reg y).toNat % s.cfg.rows) n.toNat cx cy →
            t.cell cx cy = s.cell cx cy)) ∧
        ((∃ cx < s.cfg.cols, ∃ cy < s.cfg.rows, s.cell cx cy = true ∧
            SpriteCovers s ((s.reg x).toNat % s.cfg.cols) ((s.reg y).toNat % s.cfg.rows) n.toNat cx cy) →
          t.reg vF = 1) ∧
        ((¬∃ cx < s.cfg.cols, ∃ cy < s.cfg.rows, s.cell cx cy = true ∧
            SpriteCovers s ((s.reg x).toNat % s.cfg.cols) ((s.reg y).toNat % s.cfg.rows) n.toNat cx cy) →
          t.reg vF = 0) ∧
        KeepsParts [.disp] s t ∧ KeepsRegs [vF] s t ∧ KeepsMem s t) ∧
    (n ≠ 0#4 → s.cfg.memSize ≤ s.i.toNat + n.toNat - 1 →
      ∃ t, exec (.drw x y n) s = .next t ∧ HaltsWith (.memOutOfBounds (max s.i.toNat s.cfg.memSize)) s t)

/-- R195 a, b: drawing the same sprite twice at the same coordinates restores the grid and reports a collision the second
time if the first draw set a cell; on a cleared grid a draw reports none. -/
def Obligations.DrawingTwiceRestoresTheGrid : Prop :=
  ∀ (c : Config) (d : List Bool) (x0 y0 : Nat) (bytes : List Byte), c.wf = true → d.length = c.rows * c.cols →
    x0 < c.cols → y0 < c.rows → bytes.length ≤ 15 →
    (drawSprite c (drawSprite c d x0 y0 bytes).1 x0 y0 bytes).1 = d ∧
    ((∃ j : Nat, d.getD j false = false ∧ (drawSprite c d x0 y0 bytes).1.getD j false = true) →
      (drawSprite c (drawSprite c d x0 y0 bytes).1 x0 y0 bytes).2 = true) ∧
    (drawSprite c (clearDisplay d) x0 y0 bytes).2 = false

/-! ### Keys and timers -/

/-- R210, R211, R42: Ex9E and ExA1 skip when a press of the key `V[x]`, the whole byte, was recorded at most KEY_TTL_MS ago,
which is 50 ms (R6), or when none was; every stale entry of every code is evicted. -/
def Obligations.KeySkips : Prop :=
  ∀ (x : Reg) (s : State),
    decode (0xE09E#16 ||| x.setWidth 16 <<< 8) = some (.skp x) ∧
    decode (0xE0A1#16 ||| x.setWidth 16 <<< 8) = some (.sknp x) ∧
    (s.cfg.wf = true → s.cfg.keyTtlMs = 50) ∧
    (∃ t, exec (.skp x) s = .next t ∧ OnlyParts [.pc, .keys] s t ∧
      (∀ e, e ∈ t.keys ↔ e ∈ s.keys ∧ s.now - e.time ≤ s.cfg.keyTtlMs) ∧
      (PressedWithinTtl s (s.reg x) → t.pc = s.pc + 2#16) ∧ (¬PressedWithinTtl s (s.reg x) → t.pc = s.pc)) ∧
    (∃ t, exec (.sknp x) s = .next t ∧ OnlyParts [.pc, .keys] s t ∧
      (∀ e, e ∈ t.keys ↔ e ∈ s.keys ∧ s.now - e.time ≤ s.cfg.keyTtlMs) ∧
      (¬PressedWithinTtl s (s.reg x) → t.pc = s.pc + 2#16) ∧ (PressedWithinTtl s (s.reg x) → t.pc = s.pc))

/-- R43: eviction is not observable, now or after any time. -/
def Obligations.EvictionIsNotObservable : Prop :=
  ∀ (s : State) (d : Nat) (c : Byte), (timePasses d s.keysEvict).keyPressed c = (timePasses d s).keyPressed c

/-- R212: Fx0A arms the wait slot and changes nothing else; the CPU then has no step; the KEY step with code `c` that lifts
the wait writes `V[x]` and lets the CPU run, with `pc` after the Fx0A throughout. -/
def Obligations.WaitForKeyArmsAndIsLiftedByAKey : Prop :=
  ∀ (x : Reg) (c : Nibble) (s : State),
    decode (0xF00A#16 ||| x.setWidth 16 <<< 8) = some (.ldVxK x) ∧
    ∃ t, exec (.ldVxK x) s = .next t ∧ t.run = .waitKey x ∧ OnlyParts [.run] s t ∧
      (t.turn = .cpu → ∀ u, step t ≠ .next u) ∧
      (t.turn = .key c → ∃ u, step t = .next u ∧ (u.reg x).toNat = c.toNat ∧ u.run = .running ∧ u.pc = s.pc ∧
        KeepsRegs [x] t u)

/-- R213, R214, R215: the timer instructions; and no instruction reads ST: each but Fx18 does the same with any other value
in ST and leaves that value there, and Fx18 answers the same state whatever ST held. -/
def Obligations.TimerInstructions : Prop :=
  ∀ (x : Reg) (s : State),
    decode (0xF007#16 ||| x.setWidth 16 <<< 8) = some (.ldVxDt x) ∧
    decode (0xF015#16 ||| x.setWidth 16 <<< 8) = some (.ldDtVx x) ∧
    decode (0xF018#16 ||| x.setWidth 16 <<< 8) = some (.ldStVx x) ∧
    (∃ t, exec (.ldVxDt x) s = .next t ∧ t.reg x = s.dt ∧ OnlyRegs [x] s t) ∧
    (∃ t, exec (.ldDtVx x) s = .next t ∧ t.dt = s.reg x ∧ OnlyParts [.dt] s t) ∧
    (∃ t, exec (.ldStVx x) s = .next t ∧ t.st = s.reg x ∧ t.soundActive = decide (0 < (s.reg x).toNat) ∧
      OnlyParts [.st] s t) ∧
    (∀ (i : Instr) (b : Byte) (t : State), (∀ y, i ≠ .ldStVx y) → exec i s = .next t →
      exec i { s with st := b } = .next { t with st := b }) ∧
    (∀ b : Byte, exec (.ldStVx x) { s with st := b } = exec (.ldStVx x) s)

/-! ### The other agents -/

/-- R255: a TIMER step, whatever `run` is, decrements each timer that is not 0 and leaves one at 0 alone. -/
def Obligations.TickCountsBothTimersDown : Prop :=
  ∀ s : State, s.turn = .tick →
    ∃ t, step s = .next t ∧ t.dt.toNat = s.dt.toNat - 1 ∧ t.st.toNat = s.st.toNat - 1 ∧
      OnlyParts [.dt, .st, .agenda] s t

/-- R258: a KEY step lifts a pending wait, else it is entered in the debounce set; with KEY_WAIT_ALSO_LATCHES it does
both. -/
def Obligations.KeyStepDeliversOrLatches : Prop :=
  ∀ (c : Nibble) (s : State), s.turn = .key c →
    ((s.run = .running ∨ s.run = .halted) →
      ∃ t, step s = .next t ∧ t.keys = s.keys ++ [⟨c, s.now⟩] ∧ OnlyParts [.keys, .agenda] s t) ∧
    (∀ x, s.run = .waitKey x →
      ∃ t, step s = .next t ∧ (t.reg x).toNat = c.toNat ∧ t.run = .running ∧
        t.keys = (if s.cfg.keyWaitAlsoLatches then s.keys ++ [⟨c, s.now⟩] else s.keys) ∧
        KeepsRegs [x] s t ∧ KeepsMem s t ∧ KeepsParts [.run, .keys, .agenda] s t)

/-- R262: a TIME step adds to `now` and changes nothing else, and no step of any agent makes `now` smaller. -/
def Obligations.TimeNeverDecreases : Prop :=
  (∀ (d : Nat) (s : State), s.turn = .time d →
    ∃ t, step s = .next t ∧ t.now = s.now + d ∧ OnlyParts [.now, .agenda] s t) ∧
  ∀ s t : State, step s = .next t → s.now ≤ t.now

/-- R15: beside the CPU and the host's reset, no agent changes memory, `I`, `pc`, the stack or the display; TIMER touches
only the timers, and a register changes only by a key delivered to the wait slot that names it. -/
def Obligations.OtherAgentsLeaveCpuStateAlone : Prop :=
  ∀ s t : State, s.turn ≠ .cpu → (∀ prog, s.turn ≠ .reset prog) → step s = .next t →
    KeepsMem s t ∧ KeepsParts [.dt, .st, .keys, .run, .now, .agenda] s t ∧
    (s.turn ≠ .tick → t.dt = s.dt ∧ t.st = s.st) ∧
    ((∀ c, s.turn ≠ .key c) → t.keys = s.keys ∧ t.run = s.run) ∧
    ∀ r : Reg, t.reg r ≠ s.reg r → s.run = .waitKey r ∧ ∃ c, s.turn = .key c

/-! ### Whole-machine rules -/

/-- R62, R33, R20, R29, R32: which instructions may change memory, the stack, the display, `I`, the timers, the keys and
the run state; and no instruction changes the parameters, the time, the agenda or the log of reports. -/
def Obligations.OnlyTheNamedInstructionsWriteEachPart : Prop :=
  ∀ (i : Instr) (s t : State), exec i s = .next t →
    ((∀ x, i ≠ .ldBVx x ∧ i ≠ .ldMemVx x) → KeepsMem s t) ∧
    (i ≠ .ret → (∀ nnn, i ≠ .call nnn) → t.stack = s.stack) ∧
    (i ≠ .cls → (∀ x y n, i ≠ .drw x y n) → t.disp = s.disp) ∧
    ((∀ nnn, i ≠ .ldI nnn) → (∀ x, i ≠ .addIVx x ∧ i ≠ .ldFVx x) → t.i = s.i) ∧
    ((∀ x, i ≠ .ldDtVx x) → t.dt = s.dt) ∧ ((∀ x, i ≠ .ldStVx x) → t.st = s.st) ∧
    ((∀ x, i ≠ .skp x ∧ i ≠ .sknp x) → t.keys = s.keys) ∧
    ((∀ x, i ≠ .ldVxK x) → t.run = s.run ∨ t.run = .halted) ∧
    ((∀ x nn, i ≠ .rnd x nn) → t.draws = s.draws) ∧
    t.cfg = s.cfg ∧ t.now = s.now ∧ t.agenda = s.agenda ∧ t.reports = s.reports

/-- R23: an instruction that is none of the flag writers leaves VF alone unless it names VF as its destination. -/
def Obligations.OnlyFlagWritersWriteVf : Prop :=
  ∀ (i : Instr) (s t : State), exec i s = .next t →
    (∀ x y, i ≠ .addVxVy x y ∧ i ≠ .subVxVy x y ∧ i ≠ .subnVxVy x y ∧ i ≠ .shrVxVy x y ∧ i ≠ .shlVxVy x y) →
    (∀ x y n, i ≠ .drw x y n) → (∀ x, i ≠ .addIVx x) →
    (∀ nn y, i ≠ .ldVxNn vF nn ∧ i ≠ .addVxNn vF nn ∧ i ≠ .rnd vF nn ∧ i ≠ .ldVxVy vF y ∧ i ≠ .orVxVy vF y ∧
      i ≠ .andVxVy vF y ∧ i ≠ .xorVxVy vF y) →
    i ≠ .ldVxDt vF → i ≠ .ldVxMem vF → t.reg vF = s.reg vF

/-- R246, R249: no instruction reads the log of reports or the agenda: with any other in their place it does the same. -/
def Obligations.ReportsAndAgendaAreNotReadByInstructions : Prop :=
  ∀ (i : Instr) (s t : State) (ws : List Word) (ag : List Turn), exec i s = .next t →
    exec i { s with reports := ws, agenda := ag } = .next { t with reports := ws, agenda := ag }

/-- R262: only the key look-ups read the time: any other instruction does the same at any other time. -/
def Obligations.OnlyKeyLookupsReadTheTime : Prop :=
  ∀ (i : Instr) (s t : State) (n : Nat), (∀ x, i ≠ .skp x ∧ i ≠ .sknp x) → exec i s = .next t →
    exec i { s with now := n } = .next { t with now := n }

/-- R276: at a jump to itself the CPU is at a fixed point: its step takes the turn and changes nothing else. -/
def Obligations.JumpToSelfIsAFixedPoint : Prop :=
  ∀ s : State, s.atEnd = true → s.turn = .cpu → step s = .next { s with agenda := s.agenda.tail }
end

