-- ==== Sys2Proof/Laws/Config.lean ====
section
/-!
SUPPORT. The checks on the parameters and on a program image as propositions (spec/00_scope.md R7, R9,
spec/70_reset_and_hazards.md R272).
-/

namespace Sys2Proof

theorem Config.wf_iff (c : Config) : c.wf = true ↔
    c.memSize ≤ 65536 ∧ c.progBase < c.memSize ∧ c.fontBase + 80 ≤ c.progBase ∧ 8 ≤ c.cols ∧ 15 ≤ c.rows ∧
      1 ≤ c.stackCap ∧ c.font.length = 80 ∧ c.nreg = 16 ∧ c.glyphBytes = 5 ∧ c.keyTtlMs = 50 ∧ c.timerHz = 60 := by
  simp only [Config.wf, Config.memSizeOk, Config.progBaseOk, Config.fontBaseOk, Config.gridOk, Config.stackCapOk,
    Config.fontOk, Config.fixedOk, Bool.and_eq_true, decide_eq_true_eq, and_assoc]
  exact Iff.rfl

theorem Config.imageFits_iff (c : Config) (prog : List Byte) :
    c.imageFits prog = true ↔ prog.length ≤ c.memSize - c.progBase := by
  simp only [Config.imageFits, decide_eq_true_eq]

/-- An image that fits ends inside memory. -/
theorem Config.imageFits_end {c : Config} {prog : List Byte} (hc : c.wf = true) :
    c.imageFits prog = true ↔ c.progBase + prog.length ≤ c.memSize := by
  have h := (Config.wf_iff c).1 hc
  rw [Config.imageFits_iff]
  omega

end Sys2Proof
end

