-- ==== Sys2Proof/Laws/Decode.lean ====
section
/-!
SUPPORT. The fields of a word put together from fields (spec/30_encoding.md R93): each field reads back what was put in its
place and nothing of its neighbours.
-/

namespace Sys2Proof

/-! ### Fields of a disjunction -/

@[simp] theorem opField_or (a b : Word) : opField (a ||| b) = opField a ||| opField b := by
  simp [opField, BitVec.extractLsb'_or]

@[simp] theorem xField_or (a b : Word) : xField (a ||| b) = xField a ||| xField b := by
  simp [xField, BitVec.extractLsb'_or]

@[simp] theorem yField_or (a b : Word) : yField (a ||| b) = yField a ||| yField b := by
  simp [yField, BitVec.extractLsb'_or]

@[simp] theorem nField_or (a b : Word) : nField (a ||| b) = nField a ||| nField b := by
  simp [nField, BitVec.extractLsb'_or]

@[simp] theorem nnField_or (a b : Word) : nnField (a ||| b) = nnField a ||| nnField b := by
  simp [nnField, BitVec.extractLsb'_or]

@[simp] theorem nnnField_or (a b : Word) : nnnField (a ||| b) = nnnField a ||| nnnField b := by
  simp [nnnField, BitVec.extractLsb'_or]

/-! ### Fields of a numeral -/

theorem opField_ofNat (k : Nat) : opField (BitVec.ofNat 16 k) = BitVec.ofNat 4 (k / 4096 % 16) := by
  apply BitVec.eq_of_toNat_eq; simp [opField, Nat.shiftRight_eq_div_pow]; omega

theorem xField_ofNat (k : Nat) : xField (BitVec.ofNat 16 k) = BitVec.ofNat 4 (k / 256 % 16) := by
  apply BitVec.eq_of_toNat_eq; simp [xField, Nat.shiftRight_eq_div_pow]; omega

theorem yField_ofNat (k : Nat) : yField (BitVec.ofNat 16 k) = BitVec.ofNat 4 (k / 16 % 16) := by
  apply BitVec.eq_of_toNat_eq; simp [yField, Nat.shiftRight_eq_div_pow]; omega

theorem nField_ofNat (k : Nat) : nField (BitVec.ofNat 16 k) = BitVec.ofNat 4 (k % 16) := by
  apply BitVec.eq_of_toNat_eq; simp [nField]

theorem nnField_ofNat (k : Nat) : nnField (BitVec.ofNat 16 k) = BitVec.ofNat 8 (k % 256) := by
  apply BitVec.eq_of_toNat_eq; simp [nnField]

theorem nnnField_ofNat (k : Nat) : nnnField (BitVec.ofNat 16 k) = BitVec.ofNat 12 (k % 4096) := by
  apply BitVec.eq_of_toNat_eq; simp [nnnField]

/-! ### The field `x` in its place -/

@[simp] theorem opField_putX (x : Reg) : opField (putX x) = 0#4 := by
  ext i hi; interval_cases i <;> simp [opField, putX]

@[simp] theorem xField_putX (x : Reg) : xField (putX x) = x := by
  ext i hi; interval_cases i <;> simp [xField, putX, BitVec.getLsbD_eq_getElem]

@[simp] theorem yField_putX (x : Reg) : yField (putX x) = 0#4 := by
  ext i hi; interval_cases i <;> simp [yField, putX]

@[simp] theorem nField_putX (x : Reg) : nField (putX x) = 0#4 := by
  ext i hi; interval_cases i <;> simp [nField, putX]

@[simp] theorem nnField_putX (x : Reg) : nnField (putX x) = 0#8 := by
  ext i hi; interval_cases i <;> simp [nnField, putX]

/-! ### The field `y` in its place -/

@[simp] theorem opField_putY (y : Reg) : opField (putY y) = 0#4 := by
  ext i hi; interval_cases i <;> simp [opField, putY]

@[simp] theorem xField_putY (y : Reg) : xField (putY y) = 0#4 := by
  ext i hi; interval_cases i <;> simp [xField, putY]

@[simp] theorem yField_putY (y : Reg) : yField (putY y) = y := by
  ext i hi; interval_cases i <;> simp [yField, putY, BitVec.getLsbD_eq_getElem]

@[simp] theorem nField_putY (y : Reg) : nField (putY y) = 0#4 := by
  ext i hi; interval_cases i <;> simp [nField, putY]

/-! ### The fields `n`, `nn`, `nnn` in their places -/

@[simp] theorem opField_putN (n : Nibble) : opField (n.setWidth 16) = 0#4 := by
  ext i hi; interval_cases i <;> simp [opField]

@[simp] theorem xField_putN (n : Nibble) : xField (n.setWidth 16) = 0#4 := by
  ext i hi; interval_cases i <;> simp [xField]

@[simp] theorem yField_putN (n : Nibble) : yField (n.setWidth 16) = 0#4 := by
  ext i hi; interval_cases i <;> simp [yField]

@[simp] theorem nField_putN (n : Nibble) : nField (n.setWidth 16) = n := by
  ext i hi; interval_cases i <;> simp [nField, BitVec.getLsbD_eq_getElem]

@[simp] theorem opField_putNn (nn : Byte) : opField (nn.setWidth 16) = 0#4 := by
  ext i hi; interval_cases i <;> simp [opField]

@[simp] theorem xField_putNn (nn : Byte) : xField (nn.setWidth 16) = 0#4 := by
  ext i hi; interval_cases i <;> simp [xField]

@[simp] theorem nnField_putNn (nn : Byte) : nnField (nn.setWidth 16) = nn := by
  ext i hi; interval_cases i <;> simp [nnField, BitVec.getLsbD_eq_getElem]

@[simp] theorem opField_putNnn (nnn : Addr12) : opField (nnn.setWidth 16) = 0#4 := by
  ext i hi; interval_cases i <;> simp [opField]

@[simp] theorem nnnField_putNnn (nnn : Addr12) : nnnField (nnn.setWidth 16) = nnn := by
  ext i hi; interval_cases i <;> simp [nnnField, BitVec.getLsbD_eq_getElem]

/-! ### The bytes of a word -/

/-- Storing a word and fetching it gives the word (R92, 20_memory.md R66). -/
@[simp] theorem wordOfBytes_highByte_lowByte (w : Word) : wordOfBytes (highByte w) (lowByte w) = w := by
  apply BitVec.eq_of_getLsbD_eq
  intro i hi
  have h : (wordOfBytes (highByte w) (lowByte w)).getLsbD i =
      if i < 8 then (lowByte w).getLsbD i else (highByte w).getLsbD (i - 8) := BitVec.getLsbD_append
  rw [h]
  interval_cases i <;> simp [highByte, lowByte]

/-- A word is its four nibbles: words with the same fields are equal. -/
theorem word_eq_of_fields {w w' : Word} (ho : opField w = opField w') (hx : xField w = xField w')
    (hy : yField w = yField w') (hn : nField w = nField w') : w = w' := by
  have bit : ∀ (k : Nat) (i : Nat), i < 4 →
      w.extractLsb' k 4 = w'.extractLsb' k 4 → w.getLsbD (k + i) = w'.getLsbD (k + i) := by
    intro k i hi h
    have := congrArg (fun b => b.getLsbD i) h
    simpa [hi] using this
  apply BitVec.eq_of_getLsbD_eq
  intro i hi
  interval_cases i
  · exact bit 0 0 (by decide) hn
  · exact bit 0 1 (by decide) hn
  · exact bit 0 2 (by decide) hn
  · exact bit 0 3 (by decide) hn
  · exact bit 4 0 (by decide) hy
  · exact bit 4 1 (by decide) hy
  · exact bit 4 2 (by decide) hy
  · exact bit 4 3 (by decide) hy
  · exact bit 8 0 (by decide) hx
  · exact bit 8 1 (by decide) hx
  · exact bit 8 2 (by decide) hx
  · exact bit 8 3 (by decide) hx
  · exact bit 12 0 (by decide) ho
  · exact bit 12 1 (by decide) ho
  · exact bit 12 2 (by decide) ho
  · exact bit 12 3 (by decide) ho

end Sys2Proof
end

