-- ==== Sys2Proof/Laws/State.lean ====
section
/-!
SUPPORT. One lemma per field per named update of the state, and what each reads back through `State.reg` and
`State.byte`, so that no later proof unfolds a record update.
-/

namespace Sys2Proof.Machine

/-! ### `setReg` -/

@[simp] theorem setReg_pc (s : State) (x : Reg) (b : Byte) : (s.setReg x b).pc = s.pc := rfl
@[simp] theorem setReg_i (s : State) (x : Reg) (b : Byte) : (s.setReg x b).i = s.i := rfl
@[simp] theorem setReg_dt (s : State) (x : Reg) (b : Byte) : (s.setReg x b).dt = s.dt := rfl
@[simp] theorem setReg_st (s : State) (x : Reg) (b : Byte) : (s.setReg x b).st = s.st := rfl
@[simp] theorem setReg_mem (s : State) (x : Reg) (b : Byte) : (s.setReg x b).mem = s.mem := rfl
@[simp] theorem setReg_stack (s : State) (x : Reg) (b : Byte) : (s.setReg x b).stack = s.stack := rfl
@[simp] theorem setReg_disp (s : State) (x : Reg) (b : Byte) : (s.setReg x b).disp = s.disp := rfl
@[simp] theorem setReg_keys (s : State) (x : Reg) (b : Byte) : (s.setReg x b).keys = s.keys := rfl
@[simp] theorem setReg_run (s : State) (x : Reg) (b : Byte) : (s.setReg x b).run = s.run := rfl
@[simp] theorem setReg_fault (s : State) (x : Reg) (b : Byte) : (s.setReg x b).fault = s.fault := rfl
@[simp] theorem setReg_cfg (s : State) (x : Reg) (b : Byte) : (s.setReg x b).cfg = s.cfg := rfl
@[simp] theorem setReg_now (s : State) (x : Reg) (b : Byte) : (s.setReg x b).now = s.now := rfl
@[simp] theorem setReg_agenda (s : State) (x : Reg) (b : Byte) : (s.setReg x b).agenda = s.agenda := rfl
@[simp] theorem setReg_draws (s : State) (x : Reg) (b : Byte) : (s.setReg x b).draws = s.draws := rfl
@[simp] theorem setReg_reports (s : State) (x : Reg) (b : Byte) : (s.setReg x b).reports = s.reports := rfl
@[simp] theorem setReg_byte (s : State) (x : Reg) (b : Byte) (a : Nat) : (s.setReg x b).byte a = s.byte a := rfl

/-- A written register reads back what was written, and every other reads as before (spec/10_state.md R22). -/
theorem setReg_reg (s : State) (x : Reg) (b : Byte) (r : Reg) :
    (s.setReg x b).reg r = if r = x then b else s.reg r := by
  have hx : x.toNat < 16 := x.isLt
  have hr : r.toNat < 16 := r.isLt
  simp only [State.reg, State.setReg]
  rw [Vector.getElem_set]
  by_cases h : r = x
  · subst h; simp
  · have h' : ¬ x.toNat = r.toNat := fun e => h (BitVec.eq_of_toNat_eq e.symm)
    simp [h, h']

@[simp] theorem setReg_reg_same (s : State) (x : Reg) (b : Byte) : (s.setReg x b).reg x = b := by
  simp [setReg_reg]

theorem setReg_reg_ne (s : State) {x r : Reg} (b : Byte) (h : r ≠ x) : (s.setReg x b).reg r = s.reg r := by
  simp [setReg_reg, h]

/-! ### `setFlag` -/

@[simp] theorem setFlag_pc (s : State) (f : Bool) : (s.setFlag f).pc = s.pc := rfl
@[simp] theorem setFlag_i (s : State) (f : Bool) : (s.setFlag f).i = s.i := rfl
@[simp] theorem setFlag_dt (s : State) (f : Bool) : (s.setFlag f).dt = s.dt := rfl
@[simp] theorem setFlag_st (s : State) (f : Bool) : (s.setFlag f).st = s.st := rfl
@[simp] theorem setFlag_mem (s : State) (f : Bool) : (s.setFlag f).mem = s.mem := rfl
@[simp] theorem setFlag_stack (s : State) (f : Bool) : (s.setFlag f).stack = s.stack := rfl
@[simp] theorem setFlag_disp (s : State) (f : Bool) : (s.setFlag f).disp = s.disp := rfl
@[simp] theorem setFlag_keys (s : State) (f : Bool) : (s.setFlag f).keys = s.keys := rfl
@[simp] theorem setFlag_run (s : State) (f : Bool) : (s.setFlag f).run = s.run := rfl
@[simp] theorem setFlag_fault (s : State) (f : Bool) : (s.setFlag f).fault = s.fault := rfl
@[simp] theorem setFlag_cfg (s : State) (f : Bool) : (s.setFlag f).cfg = s.cfg := rfl
@[simp] theorem setFlag_now (s : State) (f : Bool) : (s.setFlag f).now = s.now := rfl
@[simp] theorem setFlag_agenda (s : State) (f : Bool) : (s.setFlag f).agenda = s.agenda := rfl
@[simp] theorem setFlag_draws (s : State) (f : Bool) : (s.setFlag f).draws = s.draws := rfl
@[simp] theorem setFlag_reports (s : State) (f : Bool) : (s.setFlag f).reports = s.reports := rfl
@[simp] theorem setFlag_byte (s : State) (f : Bool) (a : Nat) : (s.setFlag f).byte a = s.byte a := rfl

theorem setFlag_reg (s : State) (f : Bool) (r : Reg) :
    (s.setFlag f).reg r = if r = vF then flagByte f else s.reg r := setReg_reg s vF (flagByte f) r

/-! ### `writeWithFlag` -/

@[simp] theorem writeWithFlag_pc (s : State) (x : Reg) (b : Byte) (f : Bool) : (s.writeWithFlag x b f).pc = s.pc := rfl
@[simp] theorem writeWithFlag_i (s : State) (x : Reg) (b : Byte) (f : Bool) : (s.writeWithFlag x b f).i = s.i := rfl
@[simp] theorem writeWithFlag_dt (s : State) (x : Reg) (b : Byte) (f : Bool) : (s.writeWithFlag x b f).dt = s.dt := rfl
@[simp] theorem writeWithFlag_st (s : State) (x : Reg) (b : Byte) (f : Bool) : (s.writeWithFlag x b f).st = s.st := rfl
@[simp] theorem writeWithFlag_mem (s : State) (x : Reg) (b : Byte) (f : Bool) : (s.writeWithFlag x b f).mem = s.mem := rfl
@[simp] theorem writeWithFlag_stack (s : State) (x : Reg) (b : Byte) (f : Bool) : (s.writeWithFlag x b f).stack = s.stack := rfl
@[simp] theorem writeWithFlag_disp (s : State) (x : Reg) (b : Byte) (f : Bool) : (s.writeWithFlag x b f).disp = s.disp := rfl
@[simp] theorem writeWithFlag_keys (s : State) (x : Reg) (b : Byte) (f : Bool) : (s.writeWithFlag x b f).keys = s.keys := rfl
@[simp] theorem writeWithFlag_run (s : State) (x : Reg) (b : Byte) (f : Bool) : (s.writeWithFlag x b f).run = s.run := rfl
@[simp] theorem writeWithFlag_fault (s : State) (x : Reg) (b : Byte) (f : Bool) : (s.writeWithFlag x b f).fault = s.fault := rfl
@[simp] theorem writeWithFlag_cfg (s : State) (x : Reg) (b : Byte) (f : Bool) : (s.writeWithFlag x b f).cfg = s.cfg := rfl
@[simp] theorem writeWithFlag_now (s : State) (x : Reg) (b : Byte) (f : Bool) : (s.writeWithFlag x b f).now = s.now := rfl
@[simp] theorem writeWithFlag_agenda (s : State) (x : Reg) (b : Byte) (f : Bool) : (s.writeWithFlag x b f).agenda = s.agenda := rfl
@[simp] theorem writeWithFlag_draws (s : State) (x : Reg) (b : Byte) (f : Bool) : (s.writeWithFlag x b f).draws = s.draws := rfl
@[simp] theorem writeWithFlag_reports (s : State) (x : Reg) (b : Byte) (f : Bool) : (s.writeWithFlag x b f).reports = s.reports := rfl
@[simp] theorem writeWithFlag_byte (s : State) (x : Reg) (b : Byte) (f : Bool) (a : Nat) : (s.writeWithFlag x b f).byte a = s.byte a := rfl

/-- The flag is written last: with `x = 15` it is what VF holds (spec/41_alu.md R153). -/
theorem writeWithFlag_reg (s : State) (x : Reg) (b : Byte) (f : Bool) (r : Reg) :
    (s.writeWithFlag x b f).reg r = if r = vF then flagByte f else if r = x then b else s.reg r := by
  simp [State.writeWithFlag, setFlag_reg, setReg_reg]

/-! ### `setPc` -/

@[simp] theorem setPc_v (s : State) (t : Word) : (s.setPc t).v = s.v := rfl
@[simp] theorem setPc_pc (s : State) (t : Word) : (s.setPc t).pc = t := rfl
@[simp] theorem setPc_i (s : State) (t : Word) : (s.setPc t).i = s.i := rfl
@[simp] theorem setPc_dt (s : State) (t : Word) : (s.setPc t).dt = s.dt := rfl
@[simp] theorem setPc_st (s : State) (t : Word) : (s.setPc t).st = s.st := rfl
@[simp] theorem setPc_mem (s : State) (t : Word) : (s.setPc t).mem = s.mem := rfl
@[simp] theorem setPc_stack (s : State) (t : Word) : (s.setPc t).stack = s.stack := rfl
@[simp] theorem setPc_disp (s : State) (t : Word) : (s.setPc t).disp = s.disp := rfl
@[simp] theorem setPc_keys (s : State) (t : Word) : (s.setPc t).keys = s.keys := rfl
@[simp] theorem setPc_run (s : State) (t : Word) : (s.setPc t).run = s.run := rfl
@[simp] theorem setPc_fault (s : State) (t : Word) : (s.setPc t).fault = s.fault := rfl
@[simp] theorem setPc_cfg (s : State) (t : Word) : (s.setPc t).cfg = s.cfg := rfl
@[simp] theorem setPc_now (s : State) (t : Word) : (s.setPc t).now = s.now := rfl
@[simp] theorem setPc_agenda (s : State) (t : Word) : (s.setPc t).agenda = s.agenda := rfl
@[simp] theorem setPc_draws (s : State) (t : Word) : (s.setPc t).draws = s.draws := rfl
@[simp] theorem setPc_reports (s : State) (t : Word) : (s.setPc t).reports = s.reports := rfl
@[simp] theorem setPc_reg (s : State) (t : Word) (r : Reg) : (s.setPc t).reg r = s.reg r := rfl
@[simp] theorem setPc_byte (s : State) (t : Word) (a : Nat) : (s.setPc t).byte a = s.byte a := rfl

/-! ### `setI` -/

@[simp] theorem setI_v (s : State) (t : Word) : (s.setI t).v = s.v := rfl
@[simp] theorem setI_pc (s : State) (t : Word) : (s.setI t).pc = s.pc := rfl
@[simp] theorem setI_i (s : State) (t : Word) : (s.setI t).i = t := rfl
@[simp] theorem setI_dt (s : State) (t : Word) : (s.setI t).dt = s.dt := rfl
@[simp] theorem setI_st (s : State) (t : Word) : (s.setI t).st = s.st := rfl
@[simp] theorem setI_mem (s : State) (t : Word) : (s.setI t).mem = s.mem := rfl
@[simp] theorem setI_stack (s : State) (t : Word) : (s.setI t).stack = s.stack := rfl
@[simp] theorem setI_disp (s : State) (t : Word) : (s.setI t).disp = s.disp := rfl
@[simp] theorem setI_keys (s : State) (t : Word) : (s.setI t).keys = s.keys := rfl
@[simp] theorem setI_run (s : State) (t : Word) : (s.setI t).run = s.run := rfl
@[simp] theorem setI_fault (s : State) (t : Word) : (s.setI t).fault = s.fault := rfl
@[simp] theorem setI_cfg (s : State) (t : Word) : (s.setI t).cfg = s.cfg := rfl
@[simp] theorem setI_now (s : State) (t : Word) : (s.setI t).now = s.now := rfl
@[simp] theorem setI_agenda (s : State) (t : Word) : (s.setI t).agenda = s.agenda := rfl
@[simp] theorem setI_draws (s : State) (t : Word) : (s.setI t).draws = s.draws := rfl
@[simp] theorem setI_reports (s : State) (t : Word) : (s.setI t).reports = s.reports := rfl
@[simp] theorem setI_reg (s : State) (t : Word) (r : Reg) : (s.setI t).reg r = s.reg r := rfl
@[simp] theorem setI_byte (s : State) (t : Word) (a : Nat) : (s.setI t).byte a = s.byte a := rfl

/-! ### `setDt` -/

@[simp] theorem setDt_v (s : State) (b : Byte) : (s.setDt b).v = s.v := rfl
@[simp] theorem setDt_pc (s : State) (b : Byte) : (s.setDt b).pc = s.pc := rfl
@[simp] theorem setDt_i (s : State) (b : Byte) : (s.setDt b).i = s.i := rfl
@[simp] theorem setDt_dt (s : State) (b : Byte) : (s.setDt b).dt = b := rfl
@[simp] theorem setDt_st (s : State) (b : Byte) : (s.setDt b).st = s.st := rfl
@[simp] theorem setDt_mem (s : State) (b : Byte) : (s.setDt b).mem = s.mem := rfl
@[simp] theorem setDt_stack (s : State) (b : Byte) : (s.setDt b).stack = s.stack := rfl
@[simp] theorem setDt_disp (s : State) (b : Byte) : (s.setDt b).disp = s.disp := rfl
@[simp] theorem setDt_keys (s : State) (b : Byte) : (s.setDt b).keys = s.keys := rfl
@[simp] theorem setDt_run (s : State) (b : Byte) : (s.setDt b).run = s.run := rfl
@[simp] theorem setDt_fault (s : State) (b : Byte) : (s.setDt b).fault = s.fault := rfl
@[simp] theorem setDt_cfg (s : State) (b : Byte) : (s.setDt b).cfg = s.cfg := rfl
@[simp] theorem setDt_now (s : State) (b : Byte) : (s.setDt b).now = s.now := rfl
@[simp] theorem setDt_agenda (s : State) (b : Byte) : (s.setDt b).agenda = s.agenda := rfl
@[simp] theorem setDt_draws (s : State) (b : Byte) : (s.setDt b).draws = s.draws := rfl
@[simp] theorem setDt_reports (s : State) (b : Byte) : (s.setDt b).reports = s.reports := rfl
@[simp] theorem setDt_reg (s : State) (b : Byte) (r : Reg) : (s.setDt b).reg r = s.reg r := rfl
@[simp] theorem setDt_byte (s : State) (b : Byte) (a : Nat) : (s.setDt b).byte a = s.byte a := rfl

/-! ### `setSt` -/

@[simp] theorem setSt_v (s : State) (b : Byte) : (s.setSt b).v = s.v := rfl
@[simp] theorem setSt_pc (s : State) (b : Byte) : (s.setSt b).pc = s.pc := rfl
@[simp] theorem setSt_i (s : State) (b : Byte) : (s.setSt b).i = s.i := rfl
@[simp] theorem setSt_dt (s : State) (b : Byte) : (s.setSt b).dt = s.dt := rfl
@[simp] theorem setSt_st (s : State) (b : Byte) : (s.setSt b).st = b := rfl
@[simp] theorem setSt_mem (s : State) (b : Byte) : (s.setSt b).mem = s.mem := rfl
@[simp] theorem setSt_stack (s : State) (b : Byte) : (s.setSt b).stack = s.stack := rfl
@[simp] theorem setSt_disp (s : State) (b : Byte) : (s.setSt b).disp = s.disp := rfl
@[simp] theorem setSt_keys (s : State) (b : Byte) : (s.setSt b).keys = s.keys := rfl
@[simp] theorem setSt_run (s : State) (b : Byte) : (s.setSt b).run = s.run := rfl
@[simp] theorem setSt_fault (s : State) (b : Byte) : (s.setSt b).fault = s.fault := rfl
@[simp] theorem setSt_cfg (s : State) (b : Byte) : (s.setSt b).cfg = s.cfg := rfl
@[simp] theorem setSt_now (s : State) (b : Byte) : (s.setSt b).now = s.now := rfl
@[simp] theorem setSt_agenda (s : State) (b : Byte) : (s.setSt b).agenda = s.agenda := rfl
@[simp] theorem setSt_draws (s : State) (b : Byte) : (s.setSt b).draws = s.draws := rfl
@[simp] theorem setSt_reports (s : State) (b : Byte) : (s.setSt b).reports = s.reports := rfl
@[simp] theorem setSt_reg (s : State) (b : Byte) (r : Reg) : (s.setSt b).reg r = s.reg r := rfl
@[simp] theorem setSt_byte (s : State) (b : Byte) (a : Nat) : (s.setSt b).byte a = s.byte a := rfl

/-! ### `setStack` -/

@[simp] theorem setStack_v (s : State) (st : List Word) : (s.setStack st).v = s.v := rfl
@[simp] theorem setStack_pc (s : State) (st : List Word) : (s.setStack st).pc = s.pc := rfl
@[simp] theorem setStack_i (s : State) (st : List Word) : (s.setStack st).i = s.i := rfl
@[simp] theorem setStack_dt (s : State) (st : List Word) : (s.setStack st).dt = s.dt := rfl
@[simp] theorem setStack_st (s : State) (st : List Word) : (s.setStack st).st = s.st := rfl
@[simp] theorem setStack_mem (s : State) (st : List Word) : (s.setStack st).mem = s.mem := rfl
@[simp] theorem setStack_stack (s : State) (st : List Word) : (s.setStack st).stack = st := rfl
@[simp] theorem setStack_disp (s : State) (st : List Word) : (s.setStack st).disp = s.disp := rfl
@[simp] theorem setStack_keys (s : State) (st : List Word) : (s.setStack st).keys = s.keys := rfl
@[simp] theorem setStack_run (s : State) (st : List Word) : (s.setStack st).run = s.run := rfl
@[simp] theorem setStack_fault (s : State) (st : List Word) : (s.setStack st).fault = s.fault := rfl
@[simp] theorem setStack_cfg (s : State) (st : List Word) : (s.setStack st).cfg = s.cfg := rfl
@[simp] theorem setStack_now (s : State) (st : List Word) : (s.setStack st).now = s.now := rfl
@[simp] theorem setStack_agenda (s : State) (st : List Word) : (s.setStack st).agenda = s.agenda := rfl
@[simp] theorem setStack_draws (s : State) (st : List Word) : (s.setStack st).draws = s.draws := rfl
@[simp] theorem setStack_reports (s : State) (st : List Word) : (s.setStack st).reports = s.reports := rfl
@[simp] theorem setStack_reg (s : State) (st : List Word) (r : Reg) : (s.setStack st).reg r = s.reg r := rfl
@[simp] theorem setStack_byte (s : State) (st : List Word) (a : Nat) : (s.setStack st).byte a = s.byte a := rfl

/-! ### `setDisp` -/

@[simp] theorem setDisp_v (s : State) (d : List Bool) : (s.setDisp d).v = s.v := rfl
@[simp] theorem setDisp_pc (s : State) (d : List Bool) : (s.setDisp d).pc = s.pc := rfl
@[simp] theorem setDisp_i (s : State) (d : List Bool) : (s.setDisp d).i = s.i := rfl
@[simp] theorem setDisp_dt (s : State) (d : List Bool) : (s.setDisp d).dt = s.dt := rfl
@[simp] theorem setDisp_st (s : State) (d : List Bool) : (s.setDisp d).st = s.st := rfl
@[simp] theorem setDisp_mem (s : State) (d : List Bool) : (s.setDisp d).mem = s.mem := rfl
@[simp] theorem setDisp_stack (s : State) (d : List Bool) : (s.setDisp d).stack = s.stack := rfl
@[simp] theorem setDisp_disp (s : State) (d : List Bool) : (s.setDisp d).disp = d := rfl
@[simp] theorem setDisp_keys (s : State) (d : List Bool) : (s.setDisp d).keys = s.keys := rfl
@[simp] theorem setDisp_run (s : State) (d : List Bool) : (s.setDisp d).run = s.run := rfl
@[simp] theorem setDisp_fault (s : State) (d : List Bool) : (s.setDisp d).fault = s.fault := rfl
@[simp] theorem setDisp_cfg (s : State) (d : List Bool) : (s.setDisp d).cfg = s.cfg := rfl
@[simp] theorem setDisp_now (s : State) (d : List Bool) : (s.setDisp d).now = s.now := rfl
@[simp] theorem setDisp_agenda (s : State) (d : List Bool) : (s.setDisp d).agenda = s.agenda := rfl
@[simp] theorem setDisp_draws (s : State) (d : List Bool) : (s.setDisp d).draws = s.draws := rfl
@[simp] theorem setDisp_reports (s : State) (d : List Bool) : (s.setDisp d).reports = s.reports := rfl
@[simp] theorem setDisp_reg (s : State) (d : List Bool) (r : Reg) : (s.setDisp d).reg r = s.reg r := rfl
@[simp] theorem setDisp_byte (s : State) (d : List Bool) (a : Nat) : (s.setDisp d).byte a = s.byte a := rfl

/-! ### `setRun` -/

@[simp] theorem setRun_v (s : State) (r' : Run) : (s.setRun r').v = s.v := rfl
@[simp] theorem setRun_pc (s : State) (r' : Run) : (s.setRun r').pc = s.pc := rfl
@[simp] theorem setRun_i (s : State) (r' : Run) : (s.setRun r').i = s.i := rfl
@[simp] theorem setRun_dt (s : State) (r' : Run) : (s.setRun r').dt = s.dt := rfl
@[simp] theorem setRun_st (s : State) (r' : Run) : (s.setRun r').st = s.st := rfl
@[simp] theorem setRun_mem (s : State) (r' : Run) : (s.setRun r').mem = s.mem := rfl
@[simp] theorem setRun_stack (s : State) (r' : Run) : (s.setRun r').stack = s.stack := rfl
@[simp] theorem setRun_disp (s : State) (r' : Run) : (s.setRun r').disp = s.disp := rfl
@[simp] theorem setRun_keys (s : State) (r' : Run) : (s.setRun r').keys = s.keys := rfl
@[simp] theorem setRun_run (s : State) (r' : Run) : (s.setRun r').run = r' := rfl
@[simp] theorem setRun_fault (s : State) (r' : Run) : (s.setRun r').fault = s.fault := rfl
@[simp] theorem setRun_cfg (s : State) (r' : Run) : (s.setRun r').cfg = s.cfg := rfl
@[simp] theorem setRun_now (s : State) (r' : Run) : (s.setRun r').now = s.now := rfl
@[simp] theorem setRun_agenda (s : State) (r' : Run) : (s.setRun r').agenda = s.agenda := rfl
@[simp] theorem setRun_draws (s : State) (r' : Run) : (s.setRun r').draws = s.draws := rfl
@[simp] theorem setRun_reports (s : State) (r' : Run) : (s.setRun r').reports = s.reports := rfl
@[simp] theorem setRun_reg (s : State) (r' : Run) (r : Reg) : (s.setRun r').reg r = s.reg r := rfl
@[simp] theorem setRun_byte (s : State) (r' : Run) (a : Nat) : (s.setRun r').byte a = s.byte a := rfl

/-! ### `advance` -/

@[simp] theorem advance_v (s : State) : (s.advance).v = s.v := rfl
@[simp] theorem advance_pc (s : State) : (s.advance).pc = s.pc + 2#16 := rfl
@[simp] theorem advance_i (s : State) : (s.advance).i = s.i := rfl
@[simp] theorem advance_dt (s : State) : (s.advance).dt = s.dt := rfl
@[simp] theorem advance_st (s : State) : (s.advance).st = s.st := rfl
@[simp] theorem advance_mem (s : State) : (s.advance).mem = s.mem := rfl
@[simp] theorem advance_stack (s : State) : (s.advance).stack = s.stack := rfl
@[simp] theorem advance_disp (s : State) : (s.advance).disp = s.disp := rfl
@[simp] theorem advance_keys (s : State) : (s.advance).keys = s.keys := rfl
@[simp] theorem advance_run (s : State) : (s.advance).run = s.run := rfl
@[simp] theorem advance_fault (s : State) : (s.advance).fault = s.fault := rfl
@[simp] theorem advance_cfg (s : State) : (s.advance).cfg = s.cfg := rfl
@[simp] theorem advance_now (s : State) : (s.advance).now = s.now := rfl
@[simp] theorem advance_agenda (s : State) : (s.advance).agenda = s.agenda := rfl
@[simp] theorem advance_draws (s : State) : (s.advance).draws = s.draws := rfl
@[simp] theorem advance_reports (s : State) : (s.advance).reports = s.reports := rfl
@[simp] theorem advance_reg (s : State) (r : Reg) : (s.advance).reg r = s.reg r := rfl
@[simp] theorem advance_byte (s : State) (a : Nat) : (s.advance).byte a = s.byte a := rfl

/-! ### `raise` -/

@[simp] theorem raise_v (s : State) (f : HaltCause) : (s.raise f).v = s.v := rfl
@[simp] theorem raise_pc (s : State) (f : HaltCause) : (s.raise f).pc = s.pc := rfl
@[simp] theorem raise_i (s : State) (f : HaltCause) : (s.raise f).i = s.i := rfl
@[simp] theorem raise_dt (s : State) (f : HaltCause) : (s.raise f).dt = s.dt := rfl
@[simp] theorem raise_st (s : State) (f : HaltCause) : (s.raise f).st = s.st := rfl
@[simp] theorem raise_mem (s : State) (f : HaltCause) : (s.raise f).mem = s.mem := rfl
@[simp] theorem raise_stack (s : State) (f : HaltCause) : (s.raise f).stack = s.stack := rfl
@[simp] theorem raise_disp (s : State) (f : HaltCause) : (s.raise f).disp = s.disp := rfl
@[simp] theorem raise_keys (s : State) (f : HaltCause) : (s.raise f).keys = s.keys := rfl
@[simp] theorem raise_run (s : State) (f : HaltCause) : (s.raise f).run = .halted := rfl
@[simp] theorem raise_fault (s : State) (f : HaltCause) : (s.raise f).fault = some f := rfl
@[simp] theorem raise_cfg (s : State) (f : HaltCause) : (s.raise f).cfg = s.cfg := rfl
@[simp] theorem raise_now (s : State) (f : HaltCause) : (s.raise f).now = s.now := rfl
@[simp] theorem raise_agenda (s : State) (f : HaltCause) : (s.raise f).agenda = s.agenda := rfl
@[simp] theorem raise_draws (s : State) (f : HaltCause) : (s.raise f).draws = s.draws := rfl
@[simp] theorem raise_reports (s : State) (f : HaltCause) : (s.raise f).reports = s.reports := rfl
@[simp] theorem raise_reg (s : State) (f : HaltCause) (r : Reg) : (s.raise f).reg r = s.reg r := rfl
@[simp] theorem raise_byte (s : State) (f : HaltCause) (a : Nat) : (s.raise f).byte a = s.byte a := rfl

/-! ### `report` -/

@[simp] theorem report_v (s : State) (w : Word) : (s.report w).v = s.v := rfl
@[simp] theorem report_pc (s : State) (w : Word) : (s.report w).pc = s.pc := rfl
@[simp] theorem report_i (s : State) (w : Word) : (s.report w).i = s.i := rfl
@[simp] theorem report_dt (s : State) (w : Word) : (s.report w).dt = s.dt := rfl
@[simp] theorem report_st (s : State) (w : Word) : (s.report w).st = s.st := rfl
@[simp] theorem report_mem (s : State) (w : Word) : (s.report w).mem = s.mem := rfl
@[simp] theorem report_stack (s : State) (w : Word) : (s.report w).stack = s.stack := rfl
@[simp] theorem report_disp (s : State) (w : Word) : (s.report w).disp = s.disp := rfl
@[simp] theorem report_keys (s : State) (w : Word) : (s.report w).keys = s.keys := rfl
@[simp] theorem report_run (s : State) (w : Word) : (s.report w).run = s.run := rfl
@[simp] theorem report_fault (s : State) (w : Word) : (s.report w).fault = s.fault := rfl
@[simp] theorem report_cfg (s : State) (w : Word) : (s.report w).cfg = s.cfg := rfl
@[simp] theorem report_now (s : State) (w : Word) : (s.report w).now = s.now := rfl
@[simp] theorem report_agenda (s : State) (w : Word) : (s.report w).agenda = s.agenda := rfl
@[simp] theorem report_draws (s : State) (w : Word) : (s.report w).draws = s.draws := rfl
@[simp] theorem report_reports (s : State) (w : Word) : (s.report w).reports = w :: s.reports := rfl
@[simp] theorem report_reg (s : State) (w : Word) (r : Reg) : (s.report w).reg r = s.reg r := rfl
@[simp] theorem report_byte (s : State) (w : Word) (a : Nat) : (s.report w).byte a = s.byte a := rfl

/-! ### `store` -/

@[simp] theorem store_v (s : State) (a : Nat) (bs : List Byte) : (s.store a bs).v = s.v := rfl
@[simp] theorem store_pc (s : State) (a : Nat) (bs : List Byte) : (s.store a bs).pc = s.pc := rfl
@[simp] theorem store_i (s : State) (a : Nat) (bs : List Byte) : (s.store a bs).i = s.i := rfl
@[simp] theorem store_dt (s : State) (a : Nat) (bs : List Byte) : (s.store a bs).dt = s.dt := rfl
@[simp] theorem store_st (s : State) (a : Nat) (bs : List Byte) : (s.store a bs).st = s.st := rfl
@[simp] theorem store_mem (s : State) (a : Nat) (bs : List Byte) : (s.store a bs).mem = Memory.writeBytes s.cfg s.mem a bs := rfl
@[simp] theorem store_stack (s : State) (a : Nat) (bs : List Byte) : (s.store a bs).stack = s.stack := rfl
@[simp] theorem store_disp (s : State) (a : Nat) (bs : List Byte) : (s.store a bs).disp = s.disp := rfl
@[simp] theorem store_keys (s : State) (a : Nat) (bs : List Byte) : (s.store a bs).keys = s.keys := rfl
@[simp] theorem store_run (s : State) (a : Nat) (bs : List Byte) : (s.store a bs).run = s.run := rfl
@[simp] theorem store_fault (s : State) (a : Nat) (bs : List Byte) : (s.store a bs).fault = s.fault := rfl
@[simp] theorem store_cfg (s : State) (a : Nat) (bs : List Byte) : (s.store a bs).cfg = s.cfg := rfl
@[simp] theorem store_now (s : State) (a : Nat) (bs : List Byte) : (s.store a bs).now = s.now := rfl
@[simp] theorem store_agenda (s : State) (a : Nat) (bs : List Byte) : (s.store a bs).agenda = s.agenda := rfl
@[simp] theorem store_draws (s : State) (a : Nat) (bs : List Byte) : (s.store a bs).draws = s.draws := rfl
@[simp] theorem store_reports (s : State) (a : Nat) (bs : List Byte) : (s.store a bs).reports = s.reports := rfl
@[simp] theorem store_reg (s : State) (a : Nat) (bs : List Byte) (r : Reg) : (s.store a bs).reg r = s.reg r := rfl

/-! ### `keysAdd` -/

@[simp] theorem keysAdd_v (s : State) (c : Nibble) : (s.keysAdd c).v = s.v := rfl
@[simp] theorem keysAdd_pc (s : State) (c : Nibble) : (s.keysAdd c).pc = s.pc := rfl
@[simp] theorem keysAdd_i (s : State) (c : Nibble) : (s.keysAdd c).i = s.i := rfl
@[simp] theorem keysAdd_dt (s : State) (c : Nibble) : (s.keysAdd c).dt = s.dt := rfl
@[simp] theorem keysAdd_st (s : State) (c : Nibble) : (s.keysAdd c).st = s.st := rfl
@[simp] theorem keysAdd_mem (s : State) (c : Nibble) : (s.keysAdd c).mem = s.mem := rfl
@[simp] theorem keysAdd_stack (s : State) (c : Nibble) : (s.keysAdd c).stack = s.stack := rfl
@[simp] theorem keysAdd_disp (s : State) (c : Nibble) : (s.keysAdd c).disp = s.disp := rfl
@[simp] theorem keysAdd_keys (s : State) (c : Nibble) : (s.keysAdd c).keys = s.keys ++ [⟨c, s.now⟩] := rfl
@[simp] theorem keysAdd_run (s : State) (c : Nibble) : (s.keysAdd c).run = s.run := rfl
@[simp] theorem keysAdd_fault (s : State) (c : Nibble) : (s.keysAdd c).fault = s.fault := rfl
@[simp] theorem keysAdd_cfg (s : State) (c : Nibble) : (s.keysAdd c).cfg = s.cfg := rfl
@[simp] theorem keysAdd_now (s : State) (c : Nibble) : (s.keysAdd c).now = s.now := rfl
@[simp] theorem keysAdd_agenda (s : State) (c : Nibble) : (s.keysAdd c).agenda = s.agenda := rfl
@[simp] theorem keysAdd_draws (s : State) (c : Nibble) : (s.keysAdd c).draws = s.draws := rfl
@[simp] theorem keysAdd_reports (s : State) (c : Nibble) : (s.keysAdd c).reports = s.reports := rfl
@[simp] theorem keysAdd_reg (s : State) (c : Nibble) (r : Reg) : (s.keysAdd c).reg r = s.reg r := rfl
@[simp] theorem keysAdd_byte (s : State) (c : Nibble) (a : Nat) : (s.keysAdd c).byte a = s.byte a := rfl

/-! ### `keysEvict` -/

@[simp] theorem keysEvict_v (s : State) : (s.keysEvict).v = s.v := rfl
@[simp] theorem keysEvict_pc (s : State) : (s.keysEvict).pc = s.pc := rfl
@[simp] theorem keysEvict_i (s : State) : (s.keysEvict).i = s.i := rfl
@[simp] theorem keysEvict_dt (s : State) : (s.keysEvict).dt = s.dt := rfl
@[simp] theorem keysEvict_st (s : State) : (s.keysEvict).st = s.st := rfl
@[simp] theorem keysEvict_mem (s : State) : (s.keysEvict).mem = s.mem := rfl
@[simp] theorem keysEvict_stack (s : State) : (s.keysEvict).stack = s.stack := rfl
@[simp] theorem keysEvict_disp (s : State) : (s.keysEvict).disp = s.disp := rfl
@[simp] theorem keysEvict_keys (s : State) : (s.keysEvict).keys = s.keys.filter (KeyEntry.live s.cfg s.now) := rfl
@[simp] theorem keysEvict_run (s : State) : (s.keysEvict).run = s.run := rfl
@[simp] theorem keysEvict_fault (s : State) : (s.keysEvict).fault = s.fault := rfl
@[simp] theorem keysEvict_cfg (s : State) : (s.keysEvict).cfg = s.cfg := rfl
@[simp] theorem keysEvict_now (s : State) : (s.keysEvict).now = s.now := rfl
@[simp] theorem keysEvict_agenda (s : State) : (s.keysEvict).agenda = s.agenda := rfl
@[simp] theorem keysEvict_draws (s : State) : (s.keysEvict).draws = s.draws := rfl
@[simp] theorem keysEvict_reports (s : State) : (s.keysEvict).reports = s.reports := rfl
@[simp] theorem keysEvict_reg (s : State) (r : Reg) : (s.keysEvict).reg r = s.reg r := rfl
@[simp] theorem keysEvict_byte (s : State) (a : Nat) : (s.keysEvict).byte a = s.byte a := rfl

/-! ### `countDraw` -/

@[simp] theorem countDraw_v (s : State) : (s.countDraw).v = s.v := rfl
@[simp] theorem countDraw_pc (s : State) : (s.countDraw).pc = s.pc := rfl
@[simp] theorem countDraw_i (s : State) : (s.countDraw).i = s.i := rfl
@[simp] theorem countDraw_dt (s : State) : (s.countDraw).dt = s.dt := rfl
@[simp] theorem countDraw_st (s : State) : (s.countDraw).st = s.st := rfl
@[simp] theorem countDraw_mem (s : State) : (s.countDraw).mem = s.mem := rfl
@[simp] theorem countDraw_stack (s : State) : (s.countDraw).stack = s.stack := rfl
@[simp] theorem countDraw_disp (s : State) : (s.countDraw).disp = s.disp := rfl
@[simp] theorem countDraw_keys (s : State) : (s.countDraw).keys = s.keys := rfl
@[simp] theorem countDraw_run (s : State) : (s.countDraw).run = s.run := rfl
@[simp] theorem countDraw_fault (s : State) : (s.countDraw).fault = s.fault := rfl
@[simp] theorem countDraw_cfg (s : State) : (s.countDraw).cfg = s.cfg := rfl
@[simp] theorem countDraw_now (s : State) : (s.countDraw).now = s.now := rfl
@[simp] theorem countDraw_agenda (s : State) : (s.countDraw).agenda = s.agenda := rfl
@[simp] theorem countDraw_draws (s : State) : (s.countDraw).draws = s.draws + 1 := rfl
@[simp] theorem countDraw_reports (s : State) : (s.countDraw).reports = s.reports := rfl
@[simp] theorem countDraw_reg (s : State) (r : Reg) : (s.countDraw).reg r = s.reg r := rfl
@[simp] theorem countDraw_byte (s : State) (a : Nat) : (s.countDraw).byte a = s.byte a := rfl

/-! ### `popTurn` -/

@[simp] theorem popTurn_v (s : State) : (s.popTurn).v = s.v := rfl
@[simp] theorem popTurn_pc (s : State) : (s.popTurn).pc = s.pc := rfl
@[simp] theorem popTurn_i (s : State) : (s.popTurn).i = s.i := rfl
@[simp] theorem popTurn_dt (s : State) : (s.popTurn).dt = s.dt := rfl
@[simp] theorem popTurn_st (s : State) : (s.popTurn).st = s.st := rfl
@[simp] theorem popTurn_mem (s : State) : (s.popTurn).mem = s.mem := rfl
@[simp] theorem popTurn_stack (s : State) : (s.popTurn).stack = s.stack := rfl
@[simp] theorem popTurn_disp (s : State) : (s.popTurn).disp = s.disp := rfl
@[simp] theorem popTurn_keys (s : State) : (s.popTurn).keys = s.keys := rfl
@[simp] theorem popTurn_run (s : State) : (s.popTurn).run = s.run := rfl
@[simp] theorem popTurn_fault (s : State) : (s.popTurn).fault = s.fault := rfl
@[simp] theorem popTurn_cfg (s : State) : (s.popTurn).cfg = s.cfg := rfl
@[simp] theorem popTurn_now (s : State) : (s.popTurn).now = s.now := rfl
@[simp] theorem popTurn_agenda (s : State) : (s.popTurn).agenda = s.agenda.tail := rfl
@[simp] theorem popTurn_draws (s : State) : (s.popTurn).draws = s.draws := rfl
@[simp] theorem popTurn_reports (s : State) : (s.popTurn).reports = s.reports := rfl
@[simp] theorem popTurn_reg (s : State) (r : Reg) : (s.popTurn).reg r = s.reg r := rfl
@[simp] theorem popTurn_byte (s : State) (a : Nat) : (s.popTurn).byte a = s.byte a := rfl

/-! ### `timerTick` -/

@[simp] theorem timerTick_v (s : State) : (timerTick s).v = s.v := rfl
@[simp] theorem timerTick_pc (s : State) : (timerTick s).pc = s.pc := rfl
@[simp] theorem timerTick_i (s : State) : (timerTick s).i = s.i := rfl
@[simp] theorem timerTick_dt (s : State) : (timerTick s).dt = countDown s.dt := rfl
@[simp] theorem timerTick_st (s : State) : (timerTick s).st = countDown s.st := rfl
@[simp] theorem timerTick_mem (s : State) : (timerTick s).mem = s.mem := rfl
@[simp] theorem timerTick_stack (s : State) : (timerTick s).stack = s.stack := rfl
@[simp] theorem timerTick_disp (s : State) : (timerTick s).disp = s.disp := rfl
@[simp] theorem timerTick_keys (s : State) : (timerTick s).keys = s.keys := rfl
@[simp] theorem timerTick_run (s : State) : (timerTick s).run = s.run := rfl
@[simp] theorem timerTick_fault (s : State) : (timerTick s).fault = s.fault := rfl
@[simp] theorem timerTick_cfg (s : State) : (timerTick s).cfg = s.cfg := rfl
@[simp] theorem timerTick_now (s : State) : (timerTick s).now = s.now := rfl
@[simp] theorem timerTick_agenda (s : State) : (timerTick s).agenda = s.agenda := rfl
@[simp] theorem timerTick_draws (s : State) : (timerTick s).draws = s.draws := rfl
@[simp] theorem timerTick_reports (s : State) : (timerTick s).reports = s.reports := rfl
@[simp] theorem timerTick_reg (s : State) (r : Reg) : (timerTick s).reg r = s.reg r := rfl
@[simp] theorem timerTick_byte (s : State) (a : Nat) : (timerTick s).byte a = s.byte a := rfl

/-! ### `timePasses` -/

@[simp] theorem timePasses_v (s : State) (d : Nat) : (timePasses d s).v = s.v := rfl
@[simp] theorem timePasses_pc (s : State) (d : Nat) : (timePasses d s).pc = s.pc := rfl
@[simp] theorem timePasses_i (s : State) (d : Nat) : (timePasses d s).i = s.i := rfl
@[simp] theorem timePasses_dt (s : State) (d : Nat) : (timePasses d s).dt = s.dt := rfl
@[simp] theorem timePasses_st (s : State) (d : Nat) : (timePasses d s).st = s.st := rfl
@[simp] theorem timePasses_mem (s : State) (d : Nat) : (timePasses d s).mem = s.mem := rfl
@[simp] theorem timePasses_stack (s : State) (d : Nat) : (timePasses d s).stack = s.stack := rfl
@[simp] theorem timePasses_disp (s : State) (d : Nat) : (timePasses d s).disp = s.disp := rfl
@[simp] theorem timePasses_keys (s : State) (d : Nat) : (timePasses d s).keys = s.keys := rfl
@[simp] theorem timePasses_run (s : State) (d : Nat) : (timePasses d s).run = s.run := rfl
@[simp] theorem timePasses_fault (s : State) (d : Nat) : (timePasses d s).fault = s.fault := rfl
@[simp] theorem timePasses_cfg (s : State) (d : Nat) : (timePasses d s).cfg = s.cfg := rfl
@[simp] theorem timePasses_now (s : State) (d : Nat) : (timePasses d s).now = s.now + d := rfl
@[simp] theorem timePasses_agenda (s : State) (d : Nat) : (timePasses d s).agenda = s.agenda := rfl
@[simp] theorem timePasses_draws (s : State) (d : Nat) : (timePasses d s).draws = s.draws := rfl
@[simp] theorem timePasses_reports (s : State) (d : Nat) : (timePasses d s).reports = s.reports := rfl
@[simp] theorem timePasses_reg (s : State) (d : Nat) (r : Reg) : (timePasses d s).reg r = s.reg r := rfl
@[simp] theorem timePasses_byte (s : State) (d : Nat) (a : Nat) : (timePasses d s).byte a = s.byte a := rfl

/-! ### `skipIf` -/

@[simp] theorem skipIf_pc (s : State) (c : Bool) : (s.skipIf c).pc = if c then s.pc + 2#16 else s.pc := by cases c <;> rfl
@[simp] theorem skipIf_v (s : State) (c : Bool) : (s.skipIf c).v = s.v := by cases c <;> rfl
@[simp] theorem skipIf_i (s : State) (c : Bool) : (s.skipIf c).i = s.i := by cases c <;> rfl
@[simp] theorem skipIf_dt (s : State) (c : Bool) : (s.skipIf c).dt = s.dt := by cases c <;> rfl
@[simp] theorem skipIf_st (s : State) (c : Bool) : (s.skipIf c).st = s.st := by cases c <;> rfl
@[simp] theorem skipIf_mem (s : State) (c : Bool) : (s.skipIf c).mem = s.mem := by cases c <;> rfl
@[simp] theorem skipIf_stack (s : State) (c : Bool) : (s.skipIf c).stack = s.stack := by cases c <;> rfl
@[simp] theorem skipIf_disp (s : State) (c : Bool) : (s.skipIf c).disp = s.disp := by cases c <;> rfl
@[simp] theorem skipIf_keys (s : State) (c : Bool) : (s.skipIf c).keys = s.keys := by cases c <;> rfl
@[simp] theorem skipIf_run (s : State) (c : Bool) : (s.skipIf c).run = s.run := by cases c <;> rfl
@[simp] theorem skipIf_fault (s : State) (c : Bool) : (s.skipIf c).fault = s.fault := by cases c <;> rfl
@[simp] theorem skipIf_cfg (s : State) (c : Bool) : (s.skipIf c).cfg = s.cfg := by cases c <;> rfl
@[simp] theorem skipIf_now (s : State) (c : Bool) : (s.skipIf c).now = s.now := by cases c <;> rfl
@[simp] theorem skipIf_agenda (s : State) (c : Bool) : (s.skipIf c).agenda = s.agenda := by cases c <;> rfl
@[simp] theorem skipIf_draws (s : State) (c : Bool) : (s.skipIf c).draws = s.draws := by cases c <;> rfl
@[simp] theorem skipIf_reports (s : State) (c : Bool) : (s.skipIf c).reports = s.reports := by cases c <;> rfl
@[simp] theorem skipIf_reg (s : State) (c : Bool) (r : Reg) : (s.skipIf c).reg r = s.reg r := by cases c <;> rfl
@[simp] theorem skipIf_byte (s : State) (c : Bool) (a : Nat) : (s.skipIf c).byte a = s.byte a := by cases c <;> rfl

/-! ### `loadRegs` -/

@[simp] theorem loadRegs_pc (s : State) (k : Nat) (bs : List Byte) : (s.loadRegs k bs).pc = s.pc := by
  induction bs generalizing s k with
  | nil => rfl
  | cons b bs ih => exact ih (s.setReg (BitVec.ofNat 4 k) b) (k + 1)

@[simp] theorem loadRegs_i (s : State) (k : Nat) (bs : List Byte) : (s.loadRegs k bs).i = s.i := by
  induction bs generalizing s k with
  | nil => rfl
  | cons b bs ih => exact ih (s.setReg (BitVec.ofNat 4 k) b) (k + 1)

@[simp] theorem loadRegs_dt (s : State) (k : Nat) (bs : List Byte) : (s.loadRegs k bs).dt = s.dt := by
  induction bs generalizing s k with
  | nil => rfl
  | cons b bs ih => exact ih (s.setReg (BitVec.ofNat 4 k) b) (k + 1)

@[simp] theorem loadRegs_st (s : State) (k : Nat) (bs : List Byte) : (s.loadRegs k bs).st = s.st := by
  induction bs generalizing s k with
  | nil => rfl
  | cons b bs ih => exact ih (s.setReg (BitVec.ofNat 4 k) b) (k + 1)

@[simp] theorem loadRegs_mem (s : State) (k : Nat) (bs : List Byte) : (s.loadRegs k bs).mem = s.mem := by
  induction bs generalizing s k with
  | nil => rfl
  | cons b bs ih => exact ih (s.setReg (BitVec.ofNat 4 k) b) (k + 1)

@[simp] theorem loadRegs_stack (s : State) (k : Nat) (bs : List Byte) : (s.loadRegs k bs).stack = s.stack := by
  induction bs generalizing s k with
  | nil => rfl
  | cons b bs ih => exact ih (s.setReg (BitVec.ofNat 4 k) b) (k + 1)

@[simp] theorem loadRegs_disp (s : State) (k : Nat) (bs : List Byte) : (s.loadRegs k bs).disp = s.disp := by
  induction bs generalizing s k with
  | nil => rfl
  | cons b bs ih => exact ih (s.setReg (BitVec.ofNat 4 k) b) (k + 1)

@[simp] theorem loadRegs_keys (s : State) (k : Nat) (bs : List Byte) : (s.loadRegs k bs).keys = s.keys := by
  induction bs generalizing s k with
  | nil => rfl
  | cons b bs ih => exact ih (s.setReg (BitVec.ofNat 4 k) b) (k + 1)

@[simp] theorem loadRegs_run (s : State) (k : Nat) (bs : List Byte) : (s.loadRegs k bs).run = s.run := by
  induction bs generalizing s k with
  | nil => rfl
  | cons b bs ih => exact ih (s.setReg (BitVec.ofNat 4 k) b) (k + 1)

@[simp] theorem loadRegs_fault (s : State) (k : Nat) (bs : List Byte) : (s.loadRegs k bs).fault = s.fault := by
  induction bs generalizing s k with
  | nil => rfl
  | cons b bs ih => exact ih (s.setReg (BitVec.ofNat 4 k) b) (k + 1)

@[simp] theorem loadRegs_cfg (s : State) (k : Nat) (bs : List Byte) : (s.loadRegs k bs).cfg = s.cfg := by
  induction bs generalizing s k with
  | nil => rfl
  | cons b bs ih => exact ih (s.setReg (BitVec.ofNat 4 k) b) (k + 1)

@[simp] theorem loadRegs_now (s : State) (k : Nat) (bs : List Byte) : (s.loadRegs k bs).now = s.now := by
  induction bs generalizing s k with
  | nil => rfl
  | cons b bs ih => exact ih (s.setReg (BitVec.ofNat 4 k) b) (k + 1)

@[simp] theorem loadRegs_agenda (s : State) (k : Nat) (bs : List Byte) : (s.loadRegs k bs).agenda = s.agenda := by
  induction bs generalizing s k with
  | nil => rfl
  | cons b bs ih => exact ih (s.setReg (BitVec.ofNat 4 k) b) (k + 1)

@[simp] theorem loadRegs_draws (s : State) (k : Nat) (bs : List Byte) : (s.loadRegs k bs).draws = s.draws := by
  induction bs generalizing s k with
  | nil => rfl
  | cons b bs ih => exact ih (s.setReg (BitVec.ofNat 4 k) b) (k + 1)

@[simp] theorem loadRegs_reports (s : State) (k : Nat) (bs : List Byte) : (s.loadRegs k bs).reports = s.reports := by
  induction bs generalizing s k with
  | nil => rfl
  | cons b bs ih => exact ih (s.setReg (BitVec.ofNat 4 k) b) (k + 1)

@[simp] theorem loadRegs_byte (s : State) (k : Nat) (bs : List Byte) (a : Nat) : (s.loadRegs k bs).byte a = s.byte a := by
  simp [State.byte]

/-- Register `r` receives the byte of its own number, registers outside the range keep theirs. -/
theorem loadRegs_reg (s : State) (k : Nat) (bs : List Byte) (r : Reg) (h : k + bs.length ≤ 16) :
    (s.loadRegs k bs).reg r = if k ≤ r.toNat then bs.getD (r.toNat - k) (s.reg r) else s.reg r := by
  induction bs generalizing s k with
  | nil => simp [State.loadRegs]
  | cons b bs ih =>
    have hr : r.toNat < 16 := r.isLt
    simp only [List.length_cons] at h
    have hk : (BitVec.ofNat 4 k).toNat = k := by simp; omega
    have hreg : (s.setReg (BitVec.ofNat 4 k) b).reg r = if r.toNat = k then b else s.reg r := by
      rw [setReg_reg]
      by_cases e : r.toNat = k
      · have : r = BitVec.ofNat 4 k := BitVec.eq_of_toNat_eq (by rw [hk]; exact e)
        simp [this, hk]
      · have : r ≠ BitVec.ofNat 4 k := fun e' => e (by rw [e', hk])
        simp [this, e]
    rw [State.loadRegs, ih _ _ (by omega), hreg]
    by_cases h1 : k + 1 ≤ r.toNat
    · have h2 : r.toNat ≠ k := by omega
      have h3 : k ≤ r.toNat := by omega
      have h4 : r.toNat - k = (r.toNat - (k + 1)) + 1 := by omega
      simp [h1, h2, h3, h4]
    · by_cases e : r.toNat = k
      · simp [e]
      · have h3 : ¬ k ≤ r.toNat := by omega
        simp [h1, e, h3]

/-! ### `keyEvent` -/

@[simp] theorem keyEvent_pc (s : State) (c : Nibble) : (keyEvent c s).pc = s.pc := by
  simp only [keyEvent]; split <;> (try split) <;> rfl

@[simp] theorem keyEvent_i (s : State) (c : Nibble) : (keyEvent c s).i = s.i := by
  simp only [keyEvent]; split <;> (try split) <;> rfl

@[simp] theorem keyEvent_dt (s : State) (c : Nibble) : (keyEvent c s).dt = s.dt := by
  simp only [keyEvent]; split <;> (try split) <;> rfl

@[simp] theorem keyEvent_st (s : State) (c : Nibble) : (keyEvent c s).st = s.st := by
  simp only [keyEvent]; split <;> (try split) <;> rfl

@[simp] theorem keyEvent_mem (s : State) (c : Nibble) : (keyEvent c s).mem = s.mem := by
  simp only [keyEvent]; split <;> (try split) <;> rfl

@[simp] theorem keyEvent_stack (s : State) (c : Nibble) : (keyEvent c s).stack = s.stack := by
  simp only [keyEvent]; split <;> (try split) <;> rfl

@[simp] theorem keyEvent_disp (s : State) (c : Nibble) : (keyEvent c s).disp = s.disp := by
  simp only [keyEvent]; split <;> (try split) <;> rfl

@[simp] theorem keyEvent_fault (s : State) (c : Nibble) : (keyEvent c s).fault = s.fault := by
  simp only [keyEvent]; split <;> (try split) <;> rfl

@[simp] theorem keyEvent_cfg (s : State) (c : Nibble) : (keyEvent c s).cfg = s.cfg := by
  simp only [keyEvent]; split <;> (try split) <;> rfl

@[simp] theorem keyEvent_now (s : State) (c : Nibble) : (keyEvent c s).now = s.now := by
  simp only [keyEvent]; split <;> (try split) <;> rfl

@[simp] theorem keyEvent_agenda (s : State) (c : Nibble) : (keyEvent c s).agenda = s.agenda := by
  simp only [keyEvent]; split <;> (try split) <;> rfl

@[simp] theorem keyEvent_draws (s : State) (c : Nibble) : (keyEvent c s).draws = s.draws := by
  simp only [keyEvent]; split <;> (try split) <;> rfl

@[simp] theorem keyEvent_reports (s : State) (c : Nibble) : (keyEvent c s).reports = s.reports := by
  simp only [keyEvent]; split <;> (try split) <;> rfl

@[simp] theorem keyEvent_byte (s : State) (c : Nibble) (a : Nat) : (keyEvent c s).byte a = s.byte a := by
  simp [State.byte]

end Sys2Proof.Machine
end

