-- ==== Sys2Proof/Laws/Memory.lean ====
section
/-!
SUPPORT. The laws of memory (spec/20_memory.md R64, R65, R73): a write is read back at its address, every other address
reads as before, and every operation keeps the canonical form.
-/

namespace Sys2Proof.Machine

/-! ### The rising order -/

theorem rising_cons {lo : Option Nat} {b : Nat} {u : Byte} {m : Memory} :
    Memory.rising lo ((b, u) :: m) = true ↔ (∀ l, lo = some l → l < b) ∧ Memory.rising (some b) m = true := by
  cases lo <;> simp [Memory.rising]

/-- A lower bound may be lowered. -/
theorem rising_mono {l l' : Nat} {m : Memory} (h : l' ≤ l) (hm : Memory.rising (some l) m = true) :
    Memory.rising (some l') m = true := by
  cases m with
  | nil => rfl
  | cons e m =>
    obtain ⟨b, u⟩ := e
    rw [rising_cons] at hm ⊢
    refine ⟨fun l'' e => ?_, hm.2⟩
    have := hm.1 l rfl
    cases e
    omega

/-- What rises above an address does not list it. -/
theorem find_none_of_rising {m : Memory} {a : Nat} (h : Memory.rising (some a) m = true) (b : Nat) (hb : b ≤ a) :
    Memory.find m b = none := by
  induction m generalizing a with
  | nil => rfl
  | cons e m ih =>
    obtain ⟨c, u⟩ := e
    rw [rising_cons] at h
    have hc : a < c := h.1 a rfl
    have : ¬ c = b := by omega
    simp [Memory.find, this, ih h.2 (by omega)]

theorem rising_write (c : Config) {m : Memory} {lo : Option Nat} (a : Nat) (v : Byte)
    (h : Memory.rising lo m = true) (ha : ∀ l, lo = some l → l < a) :
    Memory.rising lo (Memory.write c m a v) = true := by
  induction m generalizing lo with
  | nil =>
    unfold Memory.write
    split
    · rfl
    · rw [rising_cons]; exact ⟨ha, rfl⟩
  | cons e m ih =>
    obtain ⟨b, u⟩ := e
    have h' := h
    rw [rising_cons] at h'
    unfold Memory.write
    split
    · rename_i hab
      split
      · exact h
      · rw [rising_cons, rising_cons]
        exact ⟨ha, fun l e => by cases e; exact hab, h'.2⟩
    · split
      · rename_i e1
        subst e1
        split
        · cases lo with
          | none =>
            cases m with
            | nil => rfl
            | cons e m =>
              obtain ⟨b', u'⟩ := e
              exact rising_cons.2 ⟨fun l e => (by cases e), (rising_cons.1 h'.2).2⟩
          | some l => exact rising_mono (Nat.le_of_lt (ha l rfl)) h'.2
        · rw [rising_cons]; exact ⟨ha, h'.2⟩
      · rw [rising_cons]
        refine ⟨h'.1, ih h'.2 ?_⟩
        intro l e
        cases e
        omega

/-- A write is read back at its address, and every other address reads as before. -/
theorem read_write (c : Config) {m : Memory} {lo : Option Nat} (h : Memory.rising lo m = true) (a : Nat) (v : Byte)
    (b : Nat) : Memory.read c (Memory.write c m a v) b = if b = a then v else Memory.read c m b := by
  induction m generalizing lo with
  | nil =>
    unfold Memory.write
    by_cases hv : v = Memory.unlisted c a
    · by_cases e : b = a <;> simp [hv, e, Memory.read, Memory.find]
    · by_cases e : b = a
      · simp [hv, e, Memory.read, Memory.find]
      · have : ¬ a = b := fun e' => e e'.symm
        simp [hv, e, this, Memory.read, Memory.find]
  | cons e m ih =>
    obtain ⟨d, u⟩ := e
    have h' := rising_cons.1 h
    unfold Memory.write
    by_cases had : a < d
    · have hd : ¬ d = a := by omega
      have hnone : Memory.find m a = none := find_none_of_rising h'.2 a (by omega)
      by_cases hv : v = Memory.unlisted c a
      · by_cases e : b = a
        · subst e; simp [had, hv, Memory.read, Memory.find, hd, hnone]
        · simp [had, hv, e]
      · by_cases e : b = a
        · simp [had, hv, e, Memory.read, Memory.find]
        · have : ¬ a = b := fun e' => e e'.symm
          simp [had, hv, e, this, Memory.read, Memory.find]
    · by_cases ead : a = d
      · subst ead
        have hnone : Memory.find m a = none := find_none_of_rising h'.2 a (by omega)
        by_cases hv : v = Memory.unlisted c a
        · by_cases e : b = a
          · subst e; simp [hv, Memory.read, hnone]
          · have : ¬ a = b := fun e' => e e'.symm
            simp [hv, e, this, Memory.read, Memory.find]
        · by_cases e : b = a
          · simp [hv, e, Memory.read, Memory.find]
          · have : ¬ a = b := fun e' => e e'.symm
            simp [hv, e, this, Memory.read, Memory.find]
      · have := ih h'.2
        simp only [had, ead, if_false]
        simp only [Memory.read, Memory.find] at this ⊢
        by_cases edb : d = b
        · have : ¬ b = a := by omega
          simp [edb, this]
        · simp [edb, this]

/-! ### The canonical form -/

/-- Every listed address is in memory and no entry is what an unlisted address reads as. -/
def Memory.entriesOk (c : Config) (m : Memory) : Prop := ∀ e ∈ m, e.1 < c.memSize ∧ e.2 ≠ Memory.unlisted c e.1

theorem wf_iff {c : Config} {m : Memory} :
    Memory.wf c m = true ↔ Memory.rising none m = true ∧ Memory.entriesOk c m := by
  simp [Memory.wf, Memory.entriesOk, List.all_eq_true]

theorem entriesOk_write {c : Config} {m : Memory} (h : Memory.entriesOk c m) (a : Nat) (v : Byte)
    (ha : a < c.memSize) : Memory.entriesOk c (Memory.write c m a v) := by
  induction m with
  | nil =>
    unfold Memory.write
    split
    · exact h
    · rename_i hv
      intro e he
      rw [List.mem_singleton] at he
      subst he
      exact ⟨ha, hv⟩
  | cons e m ih =>
    obtain ⟨d, u⟩ := e
    have hm : Memory.entriesOk c m := fun x hx => h x (List.mem_cons_of_mem _ hx)
    unfold Memory.write
    split
    · split
      · exact h
      · rename_i hv
        intro x hx
        rcases List.mem_cons.1 hx with rfl | hx
        · exact ⟨ha, hv⟩
        · exact h x hx
    · split
      · split
        · exact hm
        · rename_i hv
          intro x hx
          rcases List.mem_cons.1 hx with rfl | hx
          · exact ⟨ha, hv⟩
          · exact hm x hx
      · intro x hx
        rcases List.mem_cons.1 hx with rfl | hx
        · exact h _ List.mem_cons_self
        · exact ih hm x hx

/-- A write inside memory keeps the canonical form (spec/20_memory.md R65). -/
theorem wf_write {c : Config} {m : Memory} (h : Memory.wf c m = true) (a : Nat) (v : Byte) (ha : a < c.memSize) :
    Memory.wf c (Memory.write c m a v) = true := by
  rw [wf_iff] at h ⊢
  exact ⟨rising_write c a v h.1 (fun l e => by cases e), entriesOk_write h.2 a v ha⟩

/-- Writing bytes inside memory keeps the canonical form. -/
theorem wf_writeBytes {c : Config} {m : Memory} (h : Memory.wf c m = true) (a : Nat) (bs : List Byte)
    (ha : a + bs.length ≤ c.memSize) : Memory.wf c (Memory.writeBytes c m a bs) = true := by
  induction bs generalizing m a with
  | nil => exact h
  | cons b bs ih =>
    simp only [List.length_cons] at ha
    exact ih (wf_write h a b (by omega)) (a + 1) (by omega)

/-- Written bytes are read back at their addresses, and every other address reads as before. -/
theorem read_writeBytes (c : Config) {m : Memory} (h : Memory.rising none m = true) (a : Nat) (bs : List Byte)
    (b : Nat) : Memory.read c (Memory.writeBytes c m a bs) b =
      if a ≤ b then bs.getD (b - a) (Memory.read c m b) else Memory.read c m b := by
  induction bs generalizing m a with
  | nil => simp [Memory.writeBytes]
  | cons x bs ih =>
    have hw := rising_write c (m := m) (lo := none) a x h (fun l e => by cases e)
    rw [Memory.writeBytes, ih hw, read_write c h]
    by_cases h1 : a + 1 ≤ b
    · have h2 : ¬ b = a := by omega
      have h3 : a ≤ b := by omega
      have h4 : b - a = (b - (a + 1)) + 1 := by omega
      simp [h1, h2, h3, h4]
    · by_cases e : b = a
      · simp [e]
      · have h3 : ¬ a ≤ b := by omega
        simp [h1, e, h3]

theorem rising_of_wf {c : Config} {m : Memory} (h : Memory.wf c m = true) : Memory.rising none m = true :=
  (wf_iff.1 h).1

/-- Reset memory has the canonical form. -/
theorem wf_nil (c : Config) : Memory.wf c [] = true := rfl

theorem reset_mem_wf : Memory.wf State.reset.cfg State.reset.mem = true := rfl

/-! ### The state's memory -/

/-- A store is read back byte for byte, and every address outside the stored bytes reads as before. -/
theorem store_byte {s : State} (h : Memory.wf s.cfg s.mem = true) (a : Nat) (bs : List Byte) (b : Nat) :
    (s.store a bs).byte b = if a ≤ b then bs.getD (b - a) (s.byte b) else s.byte b :=
  read_writeBytes s.cfg (rising_of_wf h) a bs b

/-- `MemRead` answers the byte of an address in memory and the address itself outside it (spec/20_memory.md R64). -/
theorem memRead_ok {s : State} {a : Nat} (h : a < s.cfg.memSize) : memRead s a = .ok (s.byte a) := by
  simp [memRead, Nat.not_le.2 h]

theorem memRead_error {s : State} {a : Nat} (h : s.cfg.memSize ≤ a) : memRead s a = .error a := by
  simp [memRead, h]

/-- The three cases of a fetch (spec/20_memory.md R66). -/
theorem fetchWord_ok {s : State} (h : s.pc.toNat + 1 < s.cfg.memSize) :
    fetchWord s = .ok (wordOfBytes (s.byte s.pc.toNat) (s.byte (s.pc.toNat + 1))) := by
  simp [fetchWord, memRead_ok (s := s) (a := s.pc.toNat) (by omega), memRead_ok h]

theorem fetchWord_error_low {s : State} (h : s.cfg.memSize ≤ s.pc.toNat) : fetchWord s = .error s.pc.toNat := by
  simp [fetchWord, memRead_error h]

theorem fetchWord_error_high {s : State} (h : s.pc.toNat < s.cfg.memSize) (h' : s.cfg.memSize ≤ s.pc.toNat + 1) :
    fetchWord s = .error (s.pc.toNat + 1) := by
  simp [fetchWord, memRead_ok h, memRead_error h']

end Sys2Proof.Machine
end

