-- ==== Sys2Proof/Laws/Ops.lean ====
section
/-!
SUPPORT. For each shared operation what it can do, said once: the stack, the index-relative range check, the display and
the keys.
-/

namespace Sys2Proof.Machine

/-! ### The stack (spec/10_state.md R30, R31) -/

theorem stackPush_room {c : Config} {st : List Word} (h : st.length < c.stackCap) (a : Word) :
    stackPush c st a = some (st ++ [a]) := by simp [stackPush, h]

theorem stackPush_full {c : Config} {st : List Word} (h : c.stackCap ≤ st.length) (a : Word) :
    stackPush c st a = none := by simp [stackPush, Nat.not_lt.2 h]

@[simp] theorem stackPop_empty : stackPop [] = none := rfl

/-- Pop gives the most recently pushed address and the stack before the push. -/
@[simp] theorem stackPop_append (st : List Word) (a : Word) : stackPop (st ++ [a]) = some (a, st) := by
  simp [stackPop]

theorem stackPop_some {st : List Word} (h : st ≠ []) : stackPop st = some (st.getLast h, st.dropLast) := by
  simp [stackPop, List.getLast?_eq_getLast_of_ne_nil h]

/-! ### The range check (spec/20_memory.md R68) -/

theorem withIndexRange_in {s : State} {last : Nat} (h : s.i.toNat + last < s.cfg.memSize) (t : State) :
    withIndexRange s last t = .next t := by
  simp [withIndexRange, State.indexAddr, Nat.not_le.2 h]

theorem withIndexRange_out {s : State} {last : Nat} (h : s.cfg.memSize ≤ s.i.toNat + last) (t : State) :
    withIndexRange s last t = .next (s.raise (.memOutOfBounds (max s.i.toNat s.cfg.memSize))) := by
  simp [withIndexRange, State.indexAddr, State.oobAddr, h]

/-- A ranged access answers a next state: the violation of an out-of-bounds range, or its effect. -/
theorem withIndexRange_cases {s t u : State} {last : Nat} (h : withIndexRange s last t = .next u) :
    (s.cfg.memSize ≤ s.i.toNat + last ∧ u = s.raise (.memOutOfBounds s.oobAddr)) ∨
      (s.i.toNat + last < s.cfg.memSize ∧ u = t) := by
  unfold withIndexRange at h
  split at h
  · rename_i hr; exact .inl ⟨hr, by injection h with h; exact h.symm⟩
  · rename_i hr; exact .inr ⟨Nat.not_le.1 hr, by injection h with h; exact h.symm⟩

@[simp] theorem indexBytes_length (s : State) (n : Nat) : (s.indexBytes n).length = n := by simp [State.indexBytes]

@[simp] theorem regsUpTo_length (s : State) (x : Reg) : (s.regsUpTo x).length = x.toNat + 1 := by
  simp [State.regsUpTo]

@[simp] theorem bcdDigits_length (b : Byte) : (bcdDigits b).length = 3 := rfl

theorem indexBytes_getD (s : State) {n k : Nat} (h : k < n) (d : Byte) :
    (s.indexBytes n).getD k d = s.byte (s.i.toNat + k) := by
  simp [State.indexBytes, State.indexAddr, h]

theorem regsUpTo_getD (s : State) {x : Reg} {k : Nat} (h : k ≤ x.toNat) (d : Byte) :
    (s.regsUpTo x).getD k d = s.reg (BitVec.ofNat 4 k) := by
  simp [State.regsUpTo, Nat.lt_succ_of_le h]

/-! ### The display (spec/10_state.md R36, R37) -/

/-- One wrap correction is the modulo when the coordinate is less than two spans. -/
theorem wrapOnce_eq_mod {x n : Nat} (h : x < 2 * n) : (if n ≤ x then x - n else x) = x % n := by
  split
  · rename_i h'
    rw [Nat.mod_eq_sub_mod h', Nat.mod_eq_of_lt (by omega)]
  · rw [Nat.mod_eq_of_lt (by omega)]

/-- Row-major indices of cells in the grid are distinct for distinct cells (R35). -/
theorem cellIndex_inj {c x y x' y' : Nat} (hx : x < c) (hx' : x' < c) (h : y * c + x = y' * c + x') :
    x = x' ∧ y = y' := by
  have hc : 0 < c := by omega
  have h1 := congrArg (· % c) h
  have h2 := congrArg (· / c) h
  simp only [Nat.add_comm _ x, Nat.add_comm _ x', Nat.add_mul_mod_self_right, Nat.mod_eq_of_lt hx,
    Nat.mod_eq_of_lt hx'] at h1
  simp only [Nat.add_comm _ x, Nat.add_comm _ x', Nat.add_mul_div_right _ _ hc, Nat.div_eq_of_lt hx,
    Nat.div_eq_of_lt hx', Nat.zero_add] at h2
  exact ⟨h1, h2⟩

/-- A cell of the grid has its index in the grid (R35). -/
theorem cellIndex_lt {c r x y : Nat} (hx : x < c) (hy : y < r) : y * c + x < r * c := by
  have h : (y + 1) * c ≤ r * c := Nat.mul_le_mul_right _ hy
  rw [Nat.add_mul] at h
  omega

@[simp] theorem clearDisplay_length (d : List Bool) : (clearDisplay d).length = d.length := by simp [clearDisplay]

@[simp] theorem clearDisplay_getD (d : List Bool) (j : Nat) : (clearDisplay d).getD j false = false := by
  by_cases h : j < d.length <;> simp [clearDisplay, h]

@[simp] theorem setPixel_length (c : Config) (d : List Bool) (x y : Nat) : (setPixel c d x y).1.length = d.length := by
  simp [setPixel]

/-- Inside the grid `SetPixel` needs no wrap: it toggles one cell and answers what the cell held. -/
theorem setPixel_inside (c : Config) (d : List Bool) {x y : Nat} (hx : x < c.cols) (hy : y < c.rows) :
    setPixel c d x y = (d.set (y * c.cols + x) (!d.getD (y * c.cols + x) false), d.getD (y * c.cols + x) false) := by
  simp [setPixel, Nat.not_le.2 hx, Nat.not_le.2 hy]

@[simp] theorem togglePixels_length (c : Config) (ps : List (Nat × Nat)) (d : List Bool) (hit : Bool) :
    (togglePixels c ps (d, hit)).1.length = d.length := by
  induction ps generalizing d hit with
  | nil => rfl
  | cons p ps ih =>
    obtain ⟨x, y⟩ := p
    rw [togglePixels, ih, setPixel_length]

@[simp] theorem drawSprite_length (c : Config) (d : List Bool) (x0 y0 : Nat) (bs : List Byte) :
    (drawSprite c d x0 y0 bs).1.length = d.length := togglePixels_length c _ d false

/-- The cells of a sprite row: those under its 1 bits. -/
theorem mem_rowPixels {c : Config} {x0 y : Nat} {b : Byte} {p : Nat × Nat} :
    p ∈ rowPixels c x0 y b ↔ ∃ k < 8, b.getLsbD (7 - k) = true ∧ p = ((x0 + k) % c.cols, y % c.rows) := by
  constructor
  · intro h
    obtain ⟨k, hk, e⟩ := List.mem_map.1 h
    rw [List.mem_filter, List.mem_range] at hk
    exact ⟨k, hk.1, hk.2, e.symm⟩
  · rintro ⟨k, hk, hb, rfl⟩
    exact List.mem_map.2 ⟨k, by rw [List.mem_filter, List.mem_range]; exact ⟨hk, hb⟩, rfl⟩

/-- The cells of a sprite: those under the 1 bits of its rows. -/
theorem mem_spritePixels {c : Config} {x0 y : Nat} {bs : List Byte} {p : Nat × Nat} :
    p ∈ spritePixels c x0 y bs ↔
      ∃ r < bs.length, ∃ k < 8, (bs.getD r 0).getLsbD (7 - k) = true ∧
        p = ((x0 + k) % c.cols, (y + r) % c.rows) := by
  induction bs generalizing y with
  | nil => simp [spritePixels]
  | cons b bs ih =>
    rw [spritePixels, List.mem_append, mem_rowPixels, ih]
    constructor
    · rintro (⟨k, hk, hb, e⟩ | ⟨r, hr, k, hk, hb, e⟩)
      · exact ⟨0, by simp, k, hk, hb, e⟩
      · exact ⟨r + 1, by simpa using hr, k, hk, by simpa using hb, by rw [e, Nat.add_right_comm, Nat.add_assoc]⟩
    · rintro ⟨r, hr, k, hk, hb, e⟩
      cases r with
      | zero => exact .inl ⟨k, hk, by simpa using hb, e⟩
      | succ r =>
        exact .inr ⟨r, by simpa using hr, k, hk, by simpa using hb, by
          rw [e, Nat.add_right_comm, Nat.add_assoc]⟩

/-! ### The keys (spec/10_state.md R42) -/

theorem keyPressed_iff {s : State} {c : Byte} :
    s.keyPressed c = true ↔ ∃ e ∈ s.keys, s.now - e.time ≤ s.cfg.keyTtlMs ∧ e.code.setWidth 8 = c := by
  simp [State.keyPressed, KeyEntry.live, List.any_eq_true]

end Sys2Proof.Machine
end

