-- ==== Sys2Proof/Laws/PerInstr.lean ====
section
/-!
SUPPORT. Statements made per instruction. `EncodedRow`: an instruction's word carries the fixed bits of its own row of the
opcode map (spec/30_encoding.md R94, R95), whatever its operands.
-/

namespace Sys2Proof.Laws.EncodedRow

/-- The encoder writes the pattern of the row that bears the instruction's mnemonic, and no operand bit falls on a fixed
digit. -/
def Statement (i : Instr) : Prop :=
  ∃ r : OpcodeRow, r ∈ opcodeMap ∧ r.mnemonic = mnemonicOf i ∧ encode i &&& r.mask = r.pat

theorem cls : Statement .cls :=
  ⟨⟨"CLS", 0x00E0, 0xFFFF⟩, by simp [opcodeMap, opcodeRowsA], rfl, rfl⟩

theorem ret : Statement .ret :=
  ⟨⟨"RET", 0x00EE, 0xFFFF⟩, by simp [opcodeMap, opcodeRowsA], rfl, rfl⟩

theorem jp (nnn : Addr12) : Statement (.jp nnn) :=
  ⟨⟨"JP_nnn", 0x1000, 0xF000⟩, by simp [opcodeMap, opcodeRowsA, opcodeRowsB, opcodeRowsC], rfl, by
    ext i hi; interval_cases i <;> simp [encode]⟩

theorem call (nnn : Addr12) : Statement (.call nnn) :=
  ⟨⟨"CALL_nnn", 0x2000, 0xF000⟩, by simp [opcodeMap, opcodeRowsA, opcodeRowsB, opcodeRowsC], rfl, by
    ext i hi; interval_cases i <;> simp [encode]⟩

theorem seVxNn (x : Reg) (nn : Byte) : Statement (.seVxNn x nn) :=
  ⟨⟨"SE_Vx__nn", 0x3000, 0xF000⟩, by simp [opcodeMap, opcodeRowsA, opcodeRowsB, opcodeRowsC], rfl, by
    ext i hi; interval_cases i <;> simp [encode, putX]⟩

theorem sneVxNn (x : Reg) (nn : Byte) : Statement (.sneVxNn x nn) :=
  ⟨⟨"SNE_Vx__nn", 0x4000, 0xF000⟩, by simp [opcodeMap, opcodeRowsA, opcodeRowsB, opcodeRowsC], rfl, by
    ext i hi; interval_cases i <;> simp [encode, putX]⟩

theorem seVxVy (x : Reg) (y : Reg) : Statement (.seVxVy x y) :=
  ⟨⟨"SE_Vx__Vy", 0x5000, 0xF00F⟩, by simp [opcodeMap, opcodeRowsA, opcodeRowsB, opcodeRowsC], rfl, by
    ext i hi; interval_cases i <;> simp [encode, putX, putY]⟩

theorem ldVxNn (x : Reg) (nn : Byte) : Statement (.ldVxNn x nn) :=
  ⟨⟨"LD_Vx__nn", 0x6000, 0xF000⟩, by simp [opcodeMap, opcodeRowsA, opcodeRowsB, opcodeRowsC], rfl, by
    ext i hi; interval_cases i <;> simp [encode, putX]⟩

theorem addVxNn (x : Reg) (nn : Byte) : Statement (.addVxNn x nn) :=
  ⟨⟨"ADD_Vx__nn", 0x7000, 0xF000⟩, by simp [opcodeMap, opcodeRowsA, opcodeRowsB, opcodeRowsC], rfl, by
    ext i hi; interval_cases i <;> simp [encode, putX]⟩

theorem ldVxVy (x : Reg) (y : Reg) : Statement (.ldVxVy x y) :=
  ⟨⟨"LD_Vx__Vy", 0x8000, 0xF00F⟩, by simp [opcodeMap, opcodeRowsA, opcodeRowsB, opcodeRowsC], rfl, by
    ext i hi; interval_cases i <;> simp [encode, putX, putY]⟩

theorem orVxVy (x : Reg) (y : Reg) : Statement (.orVxVy x y) :=
  ⟨⟨"OR_Vx__Vy", 0x8001, 0xF00F⟩, by simp [opcodeMap, opcodeRowsA, opcodeRowsB, opcodeRowsC], rfl, by
    ext i hi; interval_cases i <;> simp [encode, putX, putY]⟩

theorem andVxVy (x : Reg) (y : Reg) : Statement (.andVxVy x y) :=
  ⟨⟨"AND_Vx__Vy", 0x8002, 0xF00F⟩, by simp [opcodeMap, opcodeRowsA, opcodeRowsB, opcodeRowsC], rfl, by
    ext i hi; interval_cases i <;> simp [encode, putX, putY]⟩

theorem xorVxVy (x : Reg) (y : Reg) : Statement (.xorVxVy x y) :=
  ⟨⟨"XOR_Vx__Vy", 0x8003, 0xF00F⟩, by simp [opcodeMap, opcodeRowsA, opcodeRowsB, opcodeRowsC], rfl, by
    ext i hi; interval_cases i <;> simp [encode, putX, putY]⟩

theorem addVxVy (x : Reg) (y : Reg) : Statement (.addVxVy x y) :=
  ⟨⟨"ADD_Vx__Vy", 0x8004, 0xF00F⟩, by simp [opcodeMap, opcodeRowsA, opcodeRowsB, opcodeRowsC], rfl, by
    ext i hi; interval_cases i <;> simp [encode, putX, putY]⟩

theorem subVxVy (x : Reg) (y : Reg) : Statement (.subVxVy x y) :=
  ⟨⟨"SUB_Vx__Vy", 0x8005, 0xF00F⟩, by simp [opcodeMap, opcodeRowsA, opcodeRowsB, opcodeRowsC], rfl, by
    ext i hi; interval_cases i <;> simp [encode, putX, putY]⟩

theorem subnVxVy (x : Reg) (y : Reg) : Statement (.subnVxVy x y) :=
  ⟨⟨"SUBN_Vx__Vy", 0x8007, 0xF00F⟩, by simp [opcodeMap, opcodeRowsA, opcodeRowsB, opcodeRowsC], rfl, by
    ext i hi; interval_cases i <;> simp [encode, putX, putY]⟩

theorem shrVxVy (x : Reg) (y : Reg) : Statement (.shrVxVy x y) :=
  ⟨⟨"SHR_Vx__Vy", 0x8006, 0xF00F⟩, by simp [opcodeMap, opcodeRowsA, opcodeRowsB, opcodeRowsC], rfl, by
    ext i hi; interval_cases i <;> simp [encode, putX, putY]⟩

theorem shlVxVy (x : Reg) (y : Reg) : Statement (.shlVxVy x y) :=
  ⟨⟨"SHL_Vx__Vy", 0x800E, 0xF00F⟩, by simp [opcodeMap, opcodeRowsA, opcodeRowsB, opcodeRowsC], rfl, by
    ext i hi; interval_cases i <;> simp [encode, putX, putY]⟩

theorem sneVxVy (x : Reg) (y : Reg) : Statement (.sneVxVy x y) :=
  ⟨⟨"SNE_Vx__Vy", 0x9000, 0xF00F⟩, by simp [opcodeMap, opcodeRowsA, opcodeRowsB, opcodeRowsC], rfl, by
    ext i hi; interval_cases i <;> simp [encode, putX, putY]⟩

theorem ldI (nnn : Addr12) : Statement (.ldI nnn) :=
  ⟨⟨"LD_I__nnn", 0xA000, 0xF000⟩, by simp [opcodeMap, opcodeRowsA, opcodeRowsB, opcodeRowsC], rfl, by
    ext i hi; interval_cases i <;> simp [encode]⟩

theorem jpV0 (nnn : Addr12) : Statement (.jpV0 nnn) :=
  ⟨⟨"JP_V0__nnn", 0xB000, 0xF000⟩, by simp [opcodeMap, opcodeRowsA, opcodeRowsB, opcodeRowsC], rfl, by
    ext i hi; interval_cases i <;> simp [encode]⟩

theorem rnd (x : Reg) (nn : Byte) : Statement (.rnd x nn) :=
  ⟨⟨"RND_Vx__nn", 0xC000, 0xF000⟩, by simp [opcodeMap, opcodeRowsA, opcodeRowsB, opcodeRowsC], rfl, by
    ext i hi; interval_cases i <;> simp [encode, putX]⟩

theorem drw (x : Reg) (y : Reg) (n : Nibble) : Statement (.drw x y n) :=
  ⟨⟨"DRW_Vx__Vy__n", 0xD000, 0xF000⟩, by simp [opcodeMap, opcodeRowsA, opcodeRowsB, opcodeRowsC], rfl, by
    ext i hi; interval_cases i <;> simp [encode, putX, putY]⟩

theorem skp (x : Reg) : Statement (.skp x) :=
  ⟨⟨"SKP_Vx", 0xE09E, 0xF0FF⟩, by simp [opcodeMap, opcodeRowsA, opcodeRowsB, opcodeRowsC], rfl, by
    ext i hi; interval_cases i <;> simp [encode, putX]⟩

theorem sknp (x : Reg) : Statement (.sknp x) :=
  ⟨⟨"SKNP_Vx", 0xE0A1, 0xF0FF⟩, by simp [opcodeMap, opcodeRowsA, opcodeRowsB, opcodeRowsC], rfl, by
    ext i hi; interval_cases i <;> simp [encode, putX]⟩

theorem ldVxDt (x : Reg) : Statement (.ldVxDt x) :=
  ⟨⟨"LD_Vx__DT", 0xF007, 0xF0FF⟩, by simp [opcodeMap, opcodeRowsA, opcodeRowsB, opcodeRowsC], rfl, by
    ext i hi; interval_cases i <;> simp [encode, putX]⟩

theorem ldDtVx (x : Reg) : Statement (.ldDtVx x) :=
  ⟨⟨"LD_DT__Vx", 0xF015, 0xF0FF⟩, by simp [opcodeMap, opcodeRowsA, opcodeRowsB, opcodeRowsC], rfl, by
    ext i hi; interval_cases i <;> simp [encode, putX]⟩

theorem ldStVx (x : Reg) : Statement (.ldStVx x) :=
  ⟨⟨"LD_ST__Vx", 0xF018, 0xF0FF⟩, by simp [opcodeMap, opcodeRowsA, opcodeRowsB, opcodeRowsC], rfl, by
    ext i hi; interval_cases i <;> simp [encode, putX]⟩

theorem addIVx (x : Reg) : Statement (.addIVx x) :=
  ⟨⟨"ADD_I__Vx", 0xF01E, 0xF0FF⟩, by simp [opcodeMap, opcodeRowsA, opcodeRowsB, opcodeRowsC], rfl, by
    ext i hi; interval_cases i <;> simp [encode, putX]⟩

theorem ldVxK (x : Reg) : Statement (.ldVxK x) :=
  ⟨⟨"LD_Vx__K", 0xF00A, 0xF0FF⟩, by simp [opcodeMap, opcodeRowsA, opcodeRowsB, opcodeRowsC], rfl, by
    ext i hi; interval_cases i <;> simp [encode, putX]⟩

theorem ldFVx (x : Reg) : Statement (.ldFVx x) :=
  ⟨⟨"LD_F__Vx", 0xF029, 0xF0FF⟩, by simp [opcodeMap, opcodeRowsA, opcodeRowsB, opcodeRowsC], rfl, by
    ext i hi; interval_cases i <;> simp [encode, putX]⟩

theorem ldBVx (x : Reg) : Statement (.ldBVx x) :=
  ⟨⟨"LD_B__Vx", 0xF033, 0xF0FF⟩, by simp [opcodeMap, opcodeRowsA, opcodeRowsB, opcodeRowsC], rfl, by
    ext i hi; interval_cases i <;> simp [encode, putX]⟩

theorem ldMemVx (x : Reg) : Statement (.ldMemVx x) :=
  ⟨⟨"LD__I___Vx", 0xF055, 0xF0FF⟩, by simp [opcodeMap, opcodeRowsA, opcodeRowsB, opcodeRowsC], rfl, by
    ext i hi; interval_cases i <;> simp [encode, putX]⟩

theorem ldVxMem (x : Reg) : Statement (.ldVxMem x) :=
  ⟨⟨"LD_Vx___I", 0xF065, 0xF0FF⟩, by simp [opcodeMap, opcodeRowsA, opcodeRowsB, opcodeRowsC], rfl, by
    ext i hi; interval_cases i <;> simp [encode, putX]⟩

end Sys2Proof.Laws.EncodedRow
end

