-- ==== Sys2Proof/Laws/Safety.lean ====
section
/-!
SUPPORT. The invariant of the machine as a proposition, its parts one by one, and what a legal state says of `fault`.
-/

namespace Sys2Proof.Machine

/-- The invariant's parts. -/
theorem State.inv_iff {s : State} : s.inv = true ↔
    s.cfg.wf = true ∧ Memory.wf s.cfg s.mem = true ∧ s.stack.length ≤ s.cfg.stackCap ∧
    s.disp.length = s.cfg.rows * s.cfg.cols ∧ (∀ e ∈ s.keys, e.time ≤ s.now) ∧ haltAgrees s = true := by
  simp only [State.inv, Bool.and_eq_true, decide_eq_true_eq, List.all_eq_true, and_assoc]

/-- In RUNNING and in WAIT_KEY a legal state has no fault (spec/10_state.md R46). -/
theorem haltAgrees_iff_of_not_halted {s : State} (h : s.run ≠ .halted) : haltAgrees s = true ↔ s.fault = none := by
  unfold haltAgrees
  split <;> simp_all

/-- In HALTED a legal state has a cause, and an out-of-bounds address is outside memory (R46, R242). -/
theorem haltAgrees_iff_of_halted {s : State} (h : s.run = .halted) :
    haltAgrees s = true ↔ ∃ f, s.fault = some f ∧ ∀ a, f = .memOutOfBounds a → s.cfg.memSize ≤ a := by
  unfold haltAgrees
  split <;> simp_all

end Sys2Proof.Machine
end

