-- ==== Sys2Proof/Laws/Step.lean ====
section
/-!
SUPPORT. What a step can do, said once: which agent moved, and the three ways a CPU step goes on.
-/

namespace Sys2Proof.Machine

/-- A key press that lifts a wait (spec/60_exceptions.md R258). -/
theorem keyEvent_waitKey {s : State} {x : Reg} (c : Nibble) (h : s.run = .waitKey x) :
    keyEvent c s = if s.cfg.keyWaitAlsoLatches then
      ((s.setReg x (c.setWidth 8)).setRun .running).keysAdd c
      else (s.setReg x (c.setWidth 8)).setRun .running := by
  simp [keyEvent, h]

/-- A key press with no wait pending is entered in the debounce set (spec/60_exceptions.md R258). -/
theorem keyEvent_noWait {s : State} (c : Nibble) (h : s.run = .running ∨ s.run = .halted) :
    keyEvent c s = s.keysAdd c := by
  rcases h with h | h <;> simp [keyEvent, h]

/-- The bytes of the block after a reset with an image: the image, and the unlisted contents elsewhere
(spec/70_reset_and_hazards.md R270). -/
theorem rebooted_byte (prog : List Byte) (s : State) (a : Nat) : (rebooted prog s).byte a =
    if s.cfg.progBase ≤ a then prog.getD (a - s.cfg.progBase) (Memory.unlisted s.cfg a)
    else Memory.unlisted s.cfg a :=
  read_writeBytes s.cfg (m := []) rfl s.cfg.progBase prog a

/-- A step is the step of the agent that has the turn. -/
theorem step_eq (s : State) : step s = agentStep s.turn s.popTurn := rfl

/-- The ways a CPU step answers a next state: a fetch fault, a decode failure, an executed instruction
(spec/30_encoding.md R90). -/
theorem cpuStep_cases {s t : State} (h : cpuStep s = .next t) : s.run = .running ∧
    ((∃ a, fetchWord s = .error a ∧ t = s.raise (.memOutOfBounds a)) ∨
     (∃ w, fetchWord s = .ok w ∧ decode w = none ∧ t = s.advance.report w) ∨
     (∃ w i, fetchWord s = .ok w ∧ decode w = some i ∧ exec i s.advance = .next t)) := by
  unfold cpuStep at h
  split at h
  · cases h
  · cases h
  · rename_i hrun
    refine ⟨hrun, ?_⟩
    split at h
    · rename_i a ha
      exact .inl ⟨a, ha, by injection h with h; exact h.symm⟩
    · rename_i w hw
      unfold runWord at h
      split at h
      · rename_i i hi
        exact .inr (.inr ⟨w, i, hw, hi, h⟩)
      · rename_i hn
        exact .inr (.inl ⟨w, hw, hn, by injection h with h; exact h.symm⟩)

/-- The ways a step answers a next state. -/
theorem step_cases {s t : State} (h : step s = .next t) :
    (s.turn = .cpu ∧ cpuStep s.popTurn = .next t) ∨
    (s.turn = .tick ∧ t = timerTick s.popTurn) ∨
    (∃ c, s.turn = .key c ∧ t = keyEvent c s.popTurn) ∨
    (∃ d, s.turn = .time d ∧ t = timePasses d s.popTurn) ∨
    (∃ prog, s.turn = .reset prog ∧ s.cfg.imageFits prog = true ∧ t = rebooted prog s.popTurn) := by
  rw [step_eq] at h
  cases ht : s.turn with
  | cpu => rw [ht] at h; exact .inl ⟨rfl, h⟩
  | tick => rw [ht] at h; injection h with h; exact .inr (.inl ⟨rfl, h.symm⟩)
  | key c => rw [ht] at h; injection h with h; exact .inr (.inr (.inl ⟨c, rfl, h.symm⟩))
  | time d => rw [ht] at h; injection h with h; exact .inr (.inr (.inr (.inl ⟨d, rfl, h.symm⟩)))
  | reset prog =>
    rw [ht] at h
    simp only [agentStep, hostReset] at h
    split at h
    · rename_i hfit
      injection h with h
      exact .inr (.inr (.inr (.inr ⟨prog, rfl, hfit, h.symm⟩)))
    · cases h

/-- The word that `placeWord` places is the one the next step runs (log 27). -/
theorem step_placeWord {s : State} (hc : s.cfg.wf = true) (hroom : s.cfg.progBase + 1 < s.cfg.memSize)
    (hm : Memory.wf s.cfg s.mem = true) (w : Word) :
    step (placeWord s w) = runWord w (placeWord s w).popTurn := by
  have hpc : (placeWord s w).pc.toNat + 1 < s.cfg.memSize := by
    have := (Config.wf_iff s.cfg).1 hc
    simp only [placeWord]
    split
    · assumption
    · rw [BitVec.toNat_ofNat, Nat.mod_eq_of_lt (by omega)]; exact hroom
  have hturn : (placeWord s w).turn = .cpu := by
    by_cases h : s.turn = .cpu
    · have ha : (placeWord s w).agenda = s.agenda := if_pos h
      rw [State.turn, ha]; exact h
    · have ha : (placeWord s w).agenda = .cpu :: s.agenda := if_neg h
      rw [State.turn, ha]; rfl
  have hb : ∀ a, (placeWord s w).byte a =
      if (placeWord s w).pc.toNat ≤ a then [highByte w, lowByte w].getD (a - (placeWord s w).pc.toNat) (s.byte a)
      else s.byte a := read_writeBytes s.cfg (rising_of_wf hm) _ _
  have hf : fetchWord (placeWord s w).popTurn = .ok w := by
    rw [fetchWord_ok (s := (placeWord s w).popTurn) hpc]
    simp [hb]
  rw [step_eq, hturn]
  simp only [agentStep, cpuStep, hf]
  rfl

end Sys2Proof.Machine
end

