-- ==== Sys2Proof/Tests/Slice0.lean ====
section
/-!
SUPPORT. Checks of this model against the vectors of spec/95_test_vectors.md (each named in its comment) and hand
calculation from the rules, and a witness for the hypotheses of every statement in Certificates/Slice0/Obligations.lean.
-/

namespace Sys2Proof.Tests

open Sys2Proof Sys2Proof.Machine

/-! ### The checks on what is given to the block (spec/00_scope.md R7, R9, spec/70_reset_and_hazards.md R272) -/

theorem test_default_config_wf : Config.default.wf = true := by decide

theorem test_wf_refuses_memory_over_64K : { Config.default with memSize := 65537 }.wf = false := by decide

theorem test_wf_refuses_program_outside_memory :
    { Config.default with memSize := 0x200 }.progBaseOk = false ∧ { Config.default with memSize := 0x200 }.wf = false := by
  decide

theorem test_wf_refuses_font_over_program : { Config.default with fontBase := 0x1B1 }.wf = false := by decide

theorem test_wf_refuses_narrow_grid : { Config.default with cols := 7 }.wf = false := by decide

theorem test_wf_refuses_low_grid : { Config.default with rows := 14 }.wf = false := by decide

theorem test_wf_refuses_no_stack : { Config.default with stackCap := 0 }.wf = false := by decide

theorem test_wf_refuses_other_register_count : { Config.default with nreg := 15 }.wf = false := by decide

theorem test_wf_refuses_other_glyph_size : { Config.default with glyphBytes := 6 }.wf = false := by decide

theorem test_wf_refuses_other_ttl : { Config.default with keyTtlMs := 51 }.wf = false := by decide

theorem test_wf_refuses_other_tick_rate : { Config.default with timerHz := 50 }.wf = false := by decide

theorem test_wf_refuses_short_font : { Config.default with font := Config.defaultFont.tail }.wf = false := by decide

/-- The largest image is MEM_SIZE - PROG_BASE = 3584 bytes. -/
theorem test_image_of_3585_bytes_does_not_fit :
    Config.default.imageFits (List.replicate 3584 0) = true ∧
    Config.default.imageFits (List.replicate 3585 0) = false := by
  simp only [Config.imageFits, List.length_replicate]
  decide

/-- A legal configuration with a small grid, for the tests on the display. -/
def small : Config := { Config.default with rows := 15, cols := 8 }

theorem test_small_config_wf : small.wf = true := by decide

/-! ### Decoding: words written out from the encodings of spec/30_encoding.md R95 -/

/-- 0000 0000 1110 0000; 0000 0000 1110 1110; 0001 and 2 with nnn; Bnnn. -/
theorem test_decode_control :
    decode 0b0000000011100000#16 = some .cls ∧ decode 0b0000000011101110#16 = some .ret ∧
    decode 0b0001101010111100#16 = some (.jp 0xABC) ∧ decode 0b0010001000001010#16 = some (.call 0x20A) ∧
    decode 0b1011111111111110#16 = some (.jpV0 0xFFE) := by decide

theorem test_decode_skips :
    decode 0b0011001100101010#16 = some (.seVxNn 3 0x2A) ∧ decode 0b0100001100101010#16 = some (.sneVxNn 3 0x2A) ∧
    decode 0b0101000100100000#16 = some (.seVxVy 1 2) ∧ decode 0b1001000100100000#16 = some (.sneVxVy 1 2) := by decide

theorem test_decode_loads_and_alu :
    decode 0b0110101000000010#16 = some (.ldVxNn 0xA 0x02) ∧ decode 0b0111000011111111#16 = some (.addVxNn 0 0xFF) ∧
    decode 0b1000000100100000#16 = some (.ldVxVy 1 2) ∧ decode 0b1000000100100001#16 = some (.orVxVy 1 2) ∧
    decode 0b1000000100100010#16 = some (.andVxVy 1 2) ∧ decode 0b1000000100100011#16 = some (.xorVxVy 1 2) ∧
    decode 0b1000000100100100#16 = some (.addVxVy 1 2) ∧ decode 0b1000000100100101#16 = some (.subVxVy 1 2) ∧
    decode 0b1000000100100111#16 = some (.subnVxVy 1 2) ∧ decode 0b1000000100100110#16 = some (.shrVxVy 1 2) ∧
    decode 0b1000000100101110#16 = some (.shlVxVy 1 2) ∧ decode 0b1100001100001111#16 = some (.rnd 3 0x0F) := by decide

theorem test_decode_index_and_display :
    decode 0b1010001000010000#16 = some (.ldI 0x210) ∧ decode 0b1111001000011110#16 = some (.addIVx 2) ∧
    decode 0b1111000000101001#16 = some (.ldFVx 0) ∧ decode 0b1111000100110011#16 = some (.ldBVx 1) ∧
    decode 0b1111001001010101#16 = some (.ldMemVx 2) ∧ decode 0b1111001001100101#16 = some (.ldVxMem 2) ∧
    decode 0b1101011110100101#16 = some (.drw 7 0xA 5) := by decide

theorem test_decode_keys_and_timers :
    decode 0b1110010110011110#16 = some (.skp 5) ∧ decode 0b1110010110100001#16 = some (.sknp 5) ∧
    decode 0b1111001000001010#16 = some (.ldVxK 2) ∧ decode 0b1111001100000111#16 = some (.ldVxDt 3) ∧
    decode 0b1111001100010101#16 = some (.ldDtVx 3) ∧ decode 0b1111001100011000#16 = some (.ldStVx 3) := by decide

/-- D-DEC-1 to D-DEC-4. -/
theorem test_decode_failures :
    [0x0000#16, 0x0123#16, 0x00E1#16, 0x00FF#16, 0x5121#16, 0x8008#16, 0x812F#16, 0x9121#16, 0xE000#16, 0xE19F#16,
      0xF000#16, 0xF1FF#16, 0xF075#16, 0xF085#16].all (fun w => (decode w).isNone) = true := by decide

theorem test_decode_bytes :
    decodeBytes [0x6A#8, 0x02, 0x99] = .ok (.ldVxNn 0xA 0x02, [0x99]) ∧
    decodeBytes [0x51#8, 0x21] = .error (.unassigned 0x5121) ∧ decodeBytes [0x6A#8] = .error .truncated := by decide

/-- The opcode map has 34 rows, and a row of 8 bits would be the high bits zero. -/
theorem test_decodeTableWord :
    opcodeMap.length = 34 ∧ decodeTableWord 16 0xD7A5 = some (.drw 7 0xA 5) ∧
    decodeTableWord 8 0xE0 = some .cls ∧ decodeTableWord 16 0x5121 = none := by decide

/-! ### Helpers: one step of one instruction -/

/-- The reset state with some registers written. -/
def regs (l : List (Nat × Nat)) : State :=
  l.foldl (fun s p => s.setReg (BitVec.ofNat 4 p.1) (BitVec.ofNat 8 p.2)) State.reset

/-- Does the next state of one step that runs the word `w` have the property? -/
def after (s : State) (w : Nat) (f : State → Bool) : Bool :=
  match step (s.withFetchWord 16 w) with
  | .next t => f t
  | .fault _ => false
  | .refused _ => false

/-- Does the next state of one step have the property? -/
def afterStep (s : State) (f : State → Bool) : Bool :=
  match step s with
  | .next t => f t
  | .fault _ => false
  | .refused _ => false

/-- The state with the agent's turn coming next. -/
def withTurn (t : Turn) (s : State) : State := { s with agenda := [t] }

/-- V[k] as a number. -/
def vn (s : State) (k : Nat) : Nat := (s.reg (BitVec.ofNat 4 k)).toNat

/-- The state on the small grid. -/
def onSmall (s : State) : State := { s with cfg := small, disp := List.replicate 120 false }

/-! ### Control transfer -/

/-- D-JP-1. -/
theorem test_jp : after State.reset 0x1ABC (fun t => t.pc == 0x0ABC) = true := by decide

/-- D-CALL-1. -/
theorem test_call :
    after (State.reset.setPc 0x204) 0x220A (fun t => t.stack == [0x0206] && t.pc == 0x020A) = true := by decide

/-- D-CALL-2. -/
theorem test_call_full :
    after (State.reset.setStack (List.replicate 16 0x0202)) 0x2300 (fun t =>
      t.run == .halted && t.fault == some .stackOverflow && t.stack.length == 16 && t.pc == 0x202) = true := by decide

/-- D-RET-1. -/
theorem test_ret :
    after (State.reset.setStack [0x0206, 0x0300]) 0x00EE (fun t => t.stack == [0x0206] && t.pc == 0x0300) = true := by
  decide

/-- D-RET-2, P5 (a). -/
theorem test_ret_empty :
    after State.reset 0x00EE (fun t =>
      t.run == .halted && t.faultCause.1 == 1 && t.fault == some .stackUnderflow && t.stack == [] && t.pc == 0x0202) = true := by decide

/-- D-JPV-2: no masking to 12 bits. -/
theorem test_jpV0 : after (regs [(0, 0xFF)]) 0xBFFF (fun t => t.pc == 0x10FE) = true := by decide

/-- D-JPV-3: V3 is not used. -/
theorem test_jpV0_not_vx : after (regs [(0, 2), (3, 0x50)]) 0xB300 (fun t => t.pc == 0x0302) = true := by decide

/-- D-SE-1, D-SE-2. -/
theorem test_seVxNn :
    after (regs [(3, 0x2A)]) 0x332A (fun t => t.pc == 0x204) = true ∧
    after (regs [(3, 0x2B)]) 0x332A (fun t => t.pc == 0x202) = true := by decide

/-- D-SNE-1, D-SNE-2. -/
theorem test_sneVxNn :
    after (regs [(3, 0x2A)]) 0x432A (fun t => t.pc == 0x202) = true ∧
    after (regs [(3, 0x2B)]) 0x432A (fun t => t.pc == 0x204) = true := by decide

/-- D-SER-1, D-SER-2. -/
theorem test_seVxVy :
    after (regs [(1, 7), (2, 7)]) 0x5120 (fun t => t.pc == 0x204) = true ∧
    after (regs [(1, 7), (2, 8)]) 0x5120 (fun t => t.pc == 0x202) = true := by decide

/-- D-SNER-1, D-SNER-2. -/
theorem test_sneVxVy :
    after (regs [(1, 7), (2, 8)]) 0x9120 (fun t => t.pc == 0x204) = true ∧
    after (regs [(4, 9)]) 0x9440 (fun t => t.pc == 0x202) = true := by decide

/-- D-SKIP-1: a skip at the top of memory. -/
theorem test_skip_at_top : after (State.reset.setPc 0xFFE) 0x3000 (fun t => t.pc == 0x1002) = true := by decide

/-! ### Register loads and the ALU -/

/-- S8, D-LD-2. -/
theorem test_ldVxNn :
    after State.reset 0x6A02 (fun t => vn t 0xA == 2 && t.pc == 0x202 && vn t 0xF == 0) = true ∧
    after State.reset 0x6FAB (fun t => vn t 0xF == 0xAB) = true := by decide

/-- D-ADDI-1. -/
theorem test_addVxNn : after (regs [(0, 5), (15, 0x55)]) 0x70FF (fun t => vn t 0 == 4 && vn t 15 == 0x55) = true := by
  decide

/-- D-MOV-1. -/
theorem test_ldVxVy : after (regs [(2, 0x7C)]) 0x8120 (fun t => vn t 1 == 0x7C) = true := by decide

/-- D-OR-1. -/
theorem test_orVxVy :
    after (regs [(1, 0xF0), (2, 0x0F), (15, 0x55)]) 0x8121 (fun t => vn t 1 == 0xFF && vn t 15 == 0x55) = true := by decide

/-- D-AND-1. -/
theorem test_andVxVy :
    after (regs [(1, 0xF0), (2, 0x3C), (15, 0x55)]) 0x8122 (fun t => vn t 1 == 0x30 && vn t 15 == 0x55) = true := by decide

/-- D-XOR-1. -/
theorem test_xorVxVy :
    after (regs [(1, 0xF0), (2, 0x3C), (15, 0x55)]) 0x8123 (fun t => vn t 1 == 0xCC && vn t 15 == 0x55) = true := by decide

/-- S5 and D-ADD-2. -/
theorem test_addVxVy :
    after (regs [(1, 0xFF), (2, 1)]) 0x8124 (fun t => vn t 1 == 0 && vn t 15 == 1) = true ∧
    after (regs [(1, 0x10), (2, 0x20), (15, 0x55)]) 0x8124 (fun t => vn t 1 == 0x30 && vn t 15 == 0) = true := by decide

/-- D-ADD-5, D-ADD-6: the flag is written last, the old VF is the operand. -/
theorem test_addVxVy_vf :
    after (regs [(15, 0xF0), (2, 0x20)]) 0x8F24 (fun t => vn t 15 == 1) = true ∧
    after (regs [(1, 1), (15, 0xFF)]) 0x81F4 (fun t => vn t 1 == 0 && vn t 15 == 1) = true := by decide

/-- S6, D-SUB-3. -/
theorem test_subVxVy :
    after (regs [(1, 1), (2, 2)]) 0x8125 (fun t => vn t 1 == 0xFF && vn t 15 == 0) = true ∧
    after (regs [(1, 7), (2, 7)]) 0x8125 (fun t => vn t 1 == 0 && vn t 15 == 1) = true := by decide

/-- D-SUBN-1, D-SUBN-2. -/
theorem test_subnVxVy :
    after (regs [(1, 2), (2, 1)]) 0x8127 (fun t => vn t 1 == 0xFF && vn t 15 == 0) = true ∧
    after (regs [(1, 1), (2, 3)]) 0x8127 (fun t => vn t 1 == 2 && vn t 15 == 1) = true := by decide

/-- D-SHR-1, D-SHR-4. -/
theorem test_shrVxVy :
    after (regs [(1, 0xAA), (2, 5)]) 0x8126 (fun t => vn t 1 == 2 && vn t 2 == 5 && vn t 15 == 1) = true ∧
    after (regs [(2, 6)]) 0x8F26 (fun t => vn t 15 == 0) = true := by decide

/-- D-SHL-1, D-SHL-2. -/
theorem test_shlVxVy :
    after (regs [(2, 0x81)]) 0x812E (fun t => vn t 1 == 2 && vn t 2 == 0x81 && vn t 15 == 1) = true ∧
    after (regs [(2, 0x40)]) 0x812E (fun t => vn t 1 == 0x80 && vn t 15 == 0) = true := by decide

/-- D-RND-1, with the draw given. -/
theorem test_rnd : vn (rndWith 0xB7 3 0x0F State.reset) 3 = 0x07 := by decide

/-- D-RND-2: with the mask 0 the result does not depend on the draw. -/
theorem test_rnd_masked (r : Byte) : vn (rndWith r 3 0x00 State.reset) 3 = 0 := by
  simp [vn, rndWith, State.countDraw, State.reg, State.setReg]

/-! ### Index register and memory -/

/-- D-LDI-1. -/
theorem test_ldI : after State.reset 0xA210 (fun t => t.i == 0x0210) = true := by decide

/-- D-ADDI-I-1, D-ADDI-I-2. -/
theorem test_addIVx :
    after ((regs [(2, 5), (15, 0x55)]).setI 0x0210) 0xF21E (fun t => t.i == 0x0215 && vn t 15 == 0x55) = true ∧
    after ((regs [(2, 1)]).setI 0x0FFF) 0xF21E (fun t => t.i == 0x1000 && vn t 15 == 1) = true := by decide

/-- D-ADDI-I-4: the test is on the 16-bit sum. -/
theorem test_addIVx_wrap :
    after ((regs [(2, 1)]).setI 0xFFFF) 0xF21E (fun t => t.i == 0 && vn t 15 == 0) = true := by decide

/-- D-FONT-1. -/
theorem test_ldFVx : after (regs [(0, 0x3A)]) 0xF029 (fun t => t.i == 0x0082) = true := by decide

/-- D-BCD-1. -/
theorem test_ldBVx :
    after ((regs [(0, 254)]).setI 0x300) 0xF033 (fun t =>
      [0x2FF, 0x300, 0x301, 0x302, 0x303].map t.byte == [0, 2, 5, 4, 0]) = true := by decide

/-- D-BCD-3. -/
theorem test_ldBVx_out :
    after (((regs [(1, 7)]).setI 0xFFE).setPc 0x204) 0xF133 (fun t =>
      t.faultCause == (3, 0x1000) && t.run == .halted && t.byte 0xFFE == 0 && t.pc == 0x206) = true := by decide

/-- D-ST-1. -/
theorem test_ldMemVx :
    after ((regs [(0, 0x11), (1, 0x22), (2, 0x33), (3, 0x44)]).setI 0x400) 0xF255 (fun t =>
      [0x400, 0x401, 0x402, 0x403].map t.byte == [0x11, 0x22, 0x33, 0] && t.i == 0x400) = true := by decide

/-- D-ST-2. -/
theorem test_ldMemVx_out :
    after ((regs [(0, 0x11)]).setI 0xFF1) 0xFF55 (fun t =>
      t.faultCause == (3, 0x1000) && t.byte 0xFF1 == 0) = true := by decide

/-- D-LDM-1. -/
theorem test_ldVxMem :
    after (((regs [(3, 0x99)]).setI 0x300).store 0x300 [2, 5, 4, 7]) 0xF265 (fun t =>
      [0, 1, 2, 3].map (vn t) == [2, 5, 4, 0x99] && t.i == 0x300) = true := by decide

/-- D-LDM-2. -/
theorem test_ldVxMem_out :
    after ((regs [(0, 0x11)]).setI 0x1000) 0xF065 (fun t => t.faultCause == (3, 0x1000) && vn t 0 == 0x11) = true := by
  decide

/-! ### The display -/

/-- D-CLS-1 on the small grid. -/
theorem test_cls :
    after ((onSmall (regs [(15, 0x55)])).setDisp (List.replicate 120 true)) 0x00E0 (fun t =>
      t.disp == List.replicate 120 false && vn t 15 == 0x55) = true := by rfl

set_option maxRecDepth 8000 in
/-- D-DRW-1 on the grid of R6: each column and each row wraps. -/
theorem test_drw_wrap :
    after (((regs [(0, 62), (1, 31)]).setI 0x210).store 0x210 [0xFF, 0x81]) 0xD012 (fun t =>
      t.reg 15 == 0 && t.disp.getD 2047 false && t.disp.getD 5 false && !t.disp.getD 6 false) = true := by rfl

/-- The sprite of D-DRW-1 at the last row and column 6 of the small grid: row 14 whole, columns 6 and 5 of row 0. -/
theorem test_drw_wrap_all_cells :
    after ((onSmall ((regs [(0, 6), (1, 14)]).setI 0x210)).store 0x210 [0xFF, 0x81]) 0xD012 (fun t =>
      t.disp == List.replicate 5 false ++ [true, true] ++ List.replicate 105 false ++ List.replicate 8 true &&
      vn t 15 == 0) = true := by rfl

/-- D-DRW-5: cell 0 set, cell 1 cleared, a collision. -/
theorem test_drw_collision :
    after (((onSmall State.reset).setDisp (false :: true :: List.replicate 118 false)).setI 0x300 |>.store 0x300 [0xC0])
      0xD011 (fun t => t.disp == true :: false :: List.replicate 118 false && vn t 15 == 1) = true := by rfl

/-- S3 on the small grid. -/
theorem test_setPixel :
    (setPixel small (List.replicate 120 false) 3 2).2 = false ∧
    (setPixel small (List.replicate 120 false) 3 2).1.getD (2 * 8 + 3) false = true ∧
    setPixel small (setPixel small (List.replicate 120 false) 3 2).1 3 2 = (List.replicate 120 false, true) := ⟨rfl, rfl, rfl⟩

/-! ### Keys and timers -/

/-- The state of D-KEY-1 at a time, with V0 given. -/
def keyState (now v0 : Nat) : State := { regs [(0, v0)] with keys := [⟨5, 1000⟩], now := now }

/-- D-KEY-2, D-KEY-3: the boundary of 50 ms. -/
theorem test_skp :
    after (keyState 1050 5) 0xE09E (fun t => t.pc == 0x204) = true ∧
    after (keyState 1051 5) 0xE09E (fun t => t.pc == 0x202 && t.keys == []) = true := by decide

/-- D-KEY-6: the whole byte is compared. -/
theorem test_skp_high_nibble : after (keyState 1010 0x15) 0xE09E (fun t => t.pc == 0x202) = true := by decide

/-- D-KEY-4, D-KEY-5. -/
theorem test_sknp :
    after (regs [(0, 5)]) 0xE0A1 (fun t => t.pc == 0x204) = true ∧
    after (keyState 1010 5) 0xE0A1 (fun t => t.pc == 0x202) = true := by decide

/-- D-WAIT-1, the CPU's part. -/
theorem test_ldVxK :
    after (State.reset.setPc 0x20A) 0xF20A (fun t => t.run == .waitKey 2 && t.pc == 0x20C) = true := by decide

/-- D-WAIT-1, the KEY agent's part. -/
theorem test_key_lifts_wait :
    afterStep (withTurn (.key 0xB) (State.reset.setRun (.waitKey 2))) (fun t =>
      vn t 2 == 0xB && t.run == .running && t.keys == []) = true := by decide

/-- D-WAIT-3, D-WAIT-4. -/
theorem test_key_latches :
    afterStep (withTurn (.key 7) { State.reset with now := 500 }) (fun t => t.keys == [⟨7, 500⟩]) = true ∧
    afterStep (withTurn (.key 0xB) { State.reset with now := 500, run := .waitKey 2, cfg := { Config.default with keyWaitAlsoLatches := true } })
      (fun t => vn t 2 == 0xB && t.run == .running && t.keys == [⟨0xB, 500⟩]) = true := by decide

/-- D-TMR-1. -/
theorem test_ldVxDt : after (State.reset.setDt 0x1E) 0xF307 (fun t => vn t 3 == 0x1E) = true := by decide

/-- D-TMR-2. -/
theorem test_ldDtVx : after (regs [(3, 60)]) 0xF315 (fun t => t.dt == 60 && t.st == 0) = true := by decide

/-- D-TMR-3. -/
theorem test_ldStVx :
    after (regs [(3, 4)]) 0xF318 (fun t => t.st == 4 && t.dt == 0 && t.soundActive) = true := by decide

/-- D-TICK-1, D-TICK-2, D-TICK-3. -/
theorem test_tick :
    afterStep (withTurn .tick (State.reset.setDt 2)) (fun t => t.dt == 1 && t.st == 0) = true ∧
    afterStep (withTurn .tick (State.reset.setSt 1)) (fun t => t.dt == 0 && t.st == 0 && !t.soundActive) = true ∧
    afterStep (withTurn .tick ((State.reset.setDt 5).setRun .halted)) (fun t => t.dt == 4) = true := by decide

/-! ### The cycle -/

/-- S1, D-FET-1: big-endian, an odd address. -/
theorem test_fetch :
    fetchWord (State.reset.store 0x200 [0xAB, 0xCD]) = .ok 0xABCD ∧
    after (State.reset.setPc 0x201) 0x6107 (fun t => vn t 1 == 7 && t.pc == 0x203) = true := by decide

/-- D-FET-3. -/
theorem test_fetch_out :
    afterStep (State.reset.setPc 0xFFF) (fun t => t.faultCause == (3, 0x1000) && t.pc == 0xFFF) = true := by decide

/-- D-DEC-3: reported, no skip. -/
theorem test_decode_failure_step :
    after (regs [(1, 7), (2, 7)]) 0x5121 (fun t =>
      t.pc == 0x202 && t.reports == [0x5121] && decodeFailPulse State.reset t == some 0x5121) = true := by decide

/-- D-SMC-1: the store is seen by the fetch two steps later. -/
theorem test_store_then_fetch :
    after ((regs [(0, 0x6A), (1, 2)]).setI 0x202) 0xF155 (fun t => afterStep t (fun u => vn u 0xA == 2)) = true := by
  decide

/-- R10, R242: the port's codes, and the widest address its 16 info bits hold. -/
theorem test_fault_cause_port :
    causeCode none = 0 ∧ causeCode (some (.memOutOfBounds 0xFFFF)) = 3 ∧
    (causeInfo (some (.memOutOfBounds 0xFFFF))).toNat = 0xFFFF := by decide

/-- R270, R272: a reset out of HALTED with the image of S8. -/
theorem test_reset_turn :
    afterStep (withTurn (.reset [0x6A, 0x02]) ((regs [(3, 9)]).raise .stackUnderflow)) (fun t =>
      t.run == .running && t.fault == none && vn t 3 == 0 && t.byte 0x201 == 2 && t.byte 0x50 == 0xF0) = true := by decide

/-! ### Witnesses: the hypotheses of each statement are met -/

/-- A state with a nearly full stack. -/
def stacked (n : Nat) : State := State.reset.setStack (List.replicate n 0x0206)

theorem witness_EncodeOfDecodeIsIdentity : decode 0xD7A5 = some (.drw 7 0xA 5) := by decide

theorem witness_DecodeSelectsTheMatchingRow :
    decode 0x8126 = some (.shrVxVy 1 2) ∧ decode 0x8128 = none := by decide

/-- One word of each group of R97 that fails, and a word of each of those top nibbles that does not. -/
theorem witness_DecodeFailsExactlyOnTheUnassignedGroups :
    [0x00E1#16, 0x5001#16, 0x8008#16, 0x800F#16, 0x900F#16, 0xE09F#16, 0xF166#16].all (fun w => (decode w).isNone) = true ∧
    [0x00E0#16, 0x5000#16, 0x8007#16, 0x800E#16, 0x9000#16, 0xE09E#16, 0xF165#16].all (fun w => (decode w).isSome) = true := by
  decide

/-- An image that fits exactly, and one that is one byte too long, on a memory of 0x202 bytes. -/
theorem witness_ResetLoadsProgramAndFont :
    (∃ s : State, ∃ prog : List Byte, s.cfg.wf = true ∧ s.turn = .reset prog ∧
      s.cfg.progBase + prog.length = s.cfg.memSize) ∧
    (∃ s : State, ∃ prog : List Byte, s.cfg.wf = true ∧ s.turn = .reset prog ∧
      s.cfg.memSize + 1 = s.cfg.progBase + prog.length) :=
  ⟨⟨withTurn (.reset [1, 2]) (State.resetOf { Config.default with memSize := 0x202 }), [1, 2], by decide⟩,
   ⟨withTurn (.reset [1, 2, 3]) (State.resetOf { Config.default with memSize := 0x202 }), [1, 2, 3], by decide⟩⟩

theorem witness_ResetFromAnyState :
    ∃ s : State, ∃ prog : List Byte, s.turn = .reset prog ∧ prog.length ≤ s.cfg.memSize - s.cfg.progBase ∧
      s.run = .halted :=
  ⟨withTurn (.reset [1]) (State.reset.raise .stackUnderflow), [1], by decide⟩

theorem witness_ResetMeetsTheInvariant : small.wf = true ∧ Config.default.wf = true := by decide

/-- A legal state whose step answers a next state that is legal too, and differs. -/
theorem witness_StepKeepsTheInvariant :
    ∃ s : State, s.inv = true ∧ ∃ t, step s = .next t ∧ t.stack ≠ s.stack :=
  ⟨(State.resetOf small).withFetchWord 16 0x220A, by rfl, _, rfl, by decide⟩

theorem witness_MemoriesReadingAlikeAreEqual :
    Memory.wf Config.default [(0x300, 1), (0x301, 2)] = true ∧ Memory.wf Config.default [] = true ∧
    Memory.wf Config.default [(0x300, 0)] = false ∧ Memory.wf Config.default [(0x301, 2), (0x300, 1)] = false := by decide

theorem witness_StepRunsTheDecodedInstruction :
    ∃ s : State, s.turn = .cpu ∧ s.run = .running ∧ s.pc.toNat + 1 < s.cfg.memSize ∧
      decodeBytes [s.byte s.pc.toNat, s.byte (s.pc.toNat + 1)] = .ok (.jp 0xABC, []) :=
  ⟨(State.reset.setPc 0xFFE).withFetchWord 16 0x1ABC, by decide⟩

theorem witness_DecodeFailureIsReportedAndSkipped :
    ∃ s : State, s.turn = .cpu ∧ s.run = .running ∧ fetchWord s = .ok 0x5121 ∧ decode 0x5121 = none :=
  ⟨State.reset.withFetchWord 16 0x5121, by decide⟩

/-- The three clauses at their boundaries: `pc` at MEM_SIZE - 2, at MEM_SIZE, at MEM_SIZE - 1. -/
theorem witness_FetchIsBigEndianAndBoundsChecked :
    (∃ s : State, s.pc.toNat + 1 < s.cfg.memSize ∧ s.pc.toNat + 2 = s.cfg.memSize) ∧
    (∃ s : State, s.turn = .cpu ∧ s.run = .running ∧ s.cfg.memSize = s.pc.toNat) ∧
    (∃ s : State, s.turn = .cpu ∧ s.run = .running ∧ s.pc.toNat < s.cfg.memSize ∧ s.cfg.memSize = s.pc.toNat + 1) :=
  ⟨⟨State.reset.setPc 0xFFE, by decide⟩, ⟨State.reset.setPc 0x1000, by decide⟩, ⟨State.reset.setPc 0xFFF, by decide⟩⟩

theorem witness_CpuHasNoStepOutsideRunning :
    (∃ s : State, s.turn = .cpu ∧ s.run = .halted) ∧ (∃ s : State, s.turn = .cpu ∧ s.run = .waitKey 2) :=
  ⟨⟨State.reset.setRun .halted, by decide⟩, ⟨State.reset.setRun (.waitKey 2), by decide⟩⟩

/-- A CPU step that arms the wait, one that halts, a key that lifts the wait, a reset, and a tick that changes nothing. -/
theorem witness_RunStateTransitions :
    after State.reset 0xF20A (fun t => t.run == .waitKey 2) = true ∧
    after State.reset 0x00EE (fun t => t.run == .halted && t.fault != none) = true ∧
    afterStep (withTurn (.key 1) (State.reset.setRun (.waitKey 2))) (fun t => t.run == .running) = true ∧
    afterStep (withTurn .tick (State.reset.setRun (.waitKey 2))) (fun t => t.run == .waitKey 2) = true ∧
    afterStep (withTurn .tick (State.reset.setRun .halted)) (fun t => t.run == .halted) = true ∧
    afterStep (withTurn (.reset []) (State.reset.setRun .halted)) (fun t => t.run == .running) = true := by decide

theorem witness_FaultIsWrittenOnceAtTheHalt :
    (∃ s : State, s.inv = true ∧ (∀ prog, s.turn ≠ .reset prog) ∧ s.fault = none ∧
      ∃ t, step s = .next t ∧ t.fault ≠ s.fault) ∧
    (∃ s : State, s.inv = true ∧ (∀ prog, s.turn ≠ .reset prog) ∧ s.fault ≠ none ∧ ∃ t, step s = .next t) :=
  ⟨⟨(State.resetOf small).withFetchWord 16 0x00EE, by rfl, (by intro p h; cases h), by decide, _, rfl, by decide⟩,
   ⟨withTurn .tick ((State.resetOf small).raise .stackUnderflow), by rfl, (by intro p h; cases h), by decide, _, rfl⟩⟩

/-- A fetch fault and a fault of the execute phase. -/
theorem witness_HaltingStepChangesNothingElse :
    (∃ s : State, s.turn = .cpu ∧ s.run = .running ∧ (∃ a, fetchWord s = .error a) ∧
      ∃ t, step s = .next t ∧ t.run = .halted) ∧
    (∃ s : State, s.turn = .cpu ∧ s.run = .running ∧ (∃ w, fetchWord s = .ok w) ∧
      ∃ t, step s = .next t ∧ t.run = .halted) :=
  ⟨⟨State.reset.setPc 0xFFF, by decide, by decide, ⟨_, rfl⟩, _, rfl, by decide⟩,
   ⟨State.reset.withFetchWord 16 0x00EE, by decide, by decide, ⟨_, rfl⟩, _, rfl, by decide⟩⟩

/-- Each cause is raised by some instruction in a running state. -/
theorem witness_CauseOfAnExecuteFault :
    (∃ t, exec .ret State.reset = .next t ∧ t.run = .halted ∧ t.fault = some .stackUnderflow) ∧
    (∃ t, exec (.call 0x300) (stacked 16) = .next t ∧ t.run = .halted ∧ t.fault = some .stackOverflow) ∧
    (∃ t, exec (.ldBVx 1) (State.reset.setI 0xFFE) = .next t ∧ t.run = .halted ∧
      t.fault = some (.memOutOfBounds 0x1000)) ∧
    (∃ t, exec (.drw 0 1 2) (State.reset.setI 0xFFF) = .next t ∧ t.run = .halted ∧
      t.fault = some (.memOutOfBounds 0x1000)) ∧
    (∃ t, exec (.ldMemVx 0) (State.reset.setI 0x1234) = .next t ∧ t.run = .halted ∧
      t.fault = some (.memOutOfBounds 0x1234)) :=
  ⟨⟨_, rfl, by decide⟩, ⟨_, rfl, by decide⟩, ⟨_, rfl, by decide⟩, ⟨_, rfl, by decide⟩, ⟨_, rfl, by decide⟩⟩

/-- The last free slot, and no free slot. -/
theorem witness_CallPushesAndJumpsOrOverflows :
    (stacked 15).stack.length < (stacked 15).cfg.stackCap ∧ (stacked 16).cfg.stackCap ≤ (stacked 16).stack.length := by
  decide

theorem witness_ReturnPopsOrUnderflows : (stacked 1).stack = [] ++ [0x0206] ∧ (stacked 0).stack = [] := by decide

theorem witness_ReturnUndoesCall : (stacked 15).stack.length < (stacked 15).cfg.stackCap := by decide

/-- Both outcomes of a comparison with an immediate. -/
theorem witness_ImmediateSkips : (regs [(3, 0x2A)]).reg 3 = 0x2A ∧ (regs [(3, 0x2B)]).reg 3 ≠ 0x2A := by decide

/-- Both outcomes of a comparison of two registers. -/
theorem witness_RegisterSkips :
    (regs [(1, 7), (2, 7)]).reg 1 = (regs [(1, 7), (2, 7)]).reg 2 ∧
    (regs [(1, 7), (2, 8)]).reg 1 ≠ (regs [(1, 7), (2, 8)]).reg 2 := by decide

/-- For AddSetsSumAndCarry, SubtractionsSetDifferenceAndNotBorrow, ShiftsSetResultAndBitOut: `x ≠ vF`, the premise of the
clauses on `V[x]`; carries and borrows of both kinds. -/
theorem witness_AluResults :
    (1#4 : Reg) ≠ vF ∧ carryOut 0xFF 0x01 = true ∧ carryOut 0xFF 0x00 = false ∧ notBorrow 7 7 = true ∧
    notBorrow 7 8 = false := by decide

theorem witness_AluFlagWrites :
    (∃ t, exec (.addVxVy 1 2) State.reset = .next t) ∧ (∃ t, exec (.ldVxNn 1 2) State.reset = .next t) ∧
    (1#4 : Reg) ≠ vF := ⟨⟨_, rfl⟩, ⟨_, rfl⟩, by decide⟩

theorem witness_RandomIsMasked : (0x07#8 : Byte) &&& ~~~(0x0F#8) = 0 := by decide

theorem witness_IndexLoads : State.reset.cfg.wf = true := by decide

/-- An instruction that is not Fx18, one that reads the other timer, answers a next state. -/
theorem witness_TimerInstructions :
    (∀ y, (Instr.ldVxDt 1) ≠ .ldStVx y) ∧ ∃ t, exec (.ldVxDt 1) State.reset = .next t := ⟨fun _ => by simp, _, rfl⟩

/-- The new `I` at the boundary: 0x0FFF does not set VF, 0x1000 does. -/
theorem witness_IndexAddSetsFlagOnly :
    after ((regs [(2, 0)]).setI 0x0FFF) 0xF21E (fun t => t.i.toNat == 0x0FFF && vn t 15 == 0) = true ∧
    after ((regs [(2, 1)]).setI 0x0FFF) 0xF21E (fun t => t.i.toNat == 0x1000 && vn t 15 == 1) = true := by decide

/-- The last range inside memory (D-BCD-4), and the first that leaves it (D-BCD-3). -/
theorem witness_BcdStoresThreeDigits :
    Memory.wf State.reset.cfg State.reset.mem = true ∧
    (State.reset.setI 0xFFD).i.toNat + 2 < (State.reset.setI 0xFFD).cfg.memSize ∧
    (State.reset.setI 0xFFE).cfg.memSize ≤ (State.reset.setI 0xFFE).i.toNat + 2 := by decide

/-- D-ST-3 and D-ST-2, for the store and for the load. -/
theorem witness_BlockStoreAndBlockLoad :
    (State.reset.setI 0xFF0).i.toNat + (15#4 : Reg).toNat < (State.reset.setI 0xFF0).cfg.memSize ∧
    (State.reset.setI 0xFF1).cfg.memSize ≤ (State.reset.setI 0xFF1).i.toNat + (15#4 : Reg).toNat := by decide

/-- A register up to `x` and one above it, in a range inside memory. -/
theorem witness_BlockLoadRegisters :
    ((2#4 : Reg).toNat ≤ (2#4 : Reg).toNat) ∧ (2#4 : Reg).toNat < (3#4 : Reg).toNat := by decide

theorem witness_StoreIsSeenByTheNextFetch :
    ∃ s : State, Memory.wf s.cfg s.mem = true ∧ 1 ≤ (1#4 : Reg).toNat ∧ s.i.toNat + (1#4 : Reg).toNat < s.cfg.memSize ∧
      s.pc = s.i := ⟨State.reset.setI 0x200, by decide⟩

/-- The last coordinate of the precondition, which wraps to the last cell. -/
theorem witness_SetPixelTogglesOneCell :
    (List.replicate 120 false).length = small.rows * small.cols ∧ 15 < 2 * small.cols ∧ 29 < 2 * small.rows ∧
    15 % small.cols = 7 ∧ 29 % small.rows = 14 := by decide

/-- `n = 0` with `I` outside memory (D-DRW-7), the last byte of memory (D-DRW-11), the first range outside (D-DRW-10). -/
theorem witness_DrawXorsTheSprite :
    small.wf = true ∧ (State.resetOf small).disp.length = small.rows * small.cols ∧
    ((0#4 : Nibble) = 0#4 ∨ (State.reset.setI 0x2000).i.toNat + 0 - 1 < 4096) ∧
    (State.reset.setI 0xFFF).i.toNat + (1#4 : Nibble).toNat - 1 < State.reset.cfg.memSize ∧
    ((2#4 : Nibble) ≠ 0#4 ∧ State.reset.cfg.memSize ≤ (State.reset.setI 0xFFF).i.toNat + (2#4 : Nibble).toNat - 1) := by
  decide

/-- A draw that sets a cell. -/
theorem witness_DrawingTwiceRestoresTheGrid :
    small.wf = true ∧ (List.replicate 120 false).length = small.rows * small.cols ∧ 7 < small.cols ∧ 14 < small.rows ∧
    (List.replicate 15 (0xFF#8)).length ≤ 15 ∧
    (drawSprite small (List.replicate 120 false) 7 14 [0x80]).1.getD 119 false = true := by decide

/-- A press 50 ms old counts, one 51 ms old does not, in a legal configuration. -/
theorem witness_KeySkips :
    (keyState 1050 5).cfg.wf = true ∧
    (∃ e ∈ (keyState 1050 5).keys, e.code.toNat = ((keyState 1050 5).reg 0).toNat ∧ (keyState 1050 5).now - e.time ≤ (keyState 1050 5).cfg.keyTtlMs) ∧
    ¬(∃ e ∈ (keyState 1051 5).keys, e.code.toNat = ((keyState 1051 5).reg 0).toNat ∧ (keyState 1051 5).now - e.time ≤ (keyState 1051 5).cfg.keyTtlMs) := by
  decide

/-- After the Fx0A a key comes next, or the CPU's turn. -/
theorem witness_WaitForKeyArmsAndIsLiftedByAKey :
    (∃ s t : State, exec (.ldVxK 2) s = .next t ∧ t.turn = .key 0xB) ∧
    (∃ s t : State, exec (.ldVxK 2) s = .next t ∧ t.turn = .cpu) :=
  ⟨⟨withTurn (.key 0xB) State.reset, _, rfl, rfl⟩, ⟨State.reset, _, rfl, rfl⟩⟩

theorem witness_TickCountsBothTimersDown : (withTurn .tick State.reset).turn = .tick := by decide

/-- The three run states of a KEY step. -/
theorem witness_KeyStepDeliversOrLatches :
    (withTurn (.key 5) State.reset).turn = .key 5 ∧ (withTurn (.key 5) State.reset).run = .running ∧
    (withTurn (.key 5) (State.reset.setRun .halted)).run = .halted ∧
    (withTurn (.key 5) (State.reset.setRun (.waitKey 2))).run = .waitKey 2 := by decide

theorem witness_TimeNeverDecreases :
    (withTurn (.time 16) State.reset).turn = .time 16 ∧
    afterStep (withTurn (.time 16) State.reset) (fun t => t.now == 16) = true := by decide

/-- A key that lifts a wait changes a register; a tick changes the timers. -/
theorem witness_OtherAgentsLeaveCpuStateAlone :
    ∃ s t : State, s.turn ≠ .cpu ∧ (∀ prog, s.turn ≠ .reset prog) ∧ step s = .next t ∧ t.reg 2 ≠ s.reg 2 :=
  ⟨withTurn (.key 0xB) (State.reset.setRun (.waitKey 2)), _, by decide, (by intro p h; cases h), rfl, by decide⟩

/-- An instruction that is in none of the lists of writers, and answers a next state. -/
theorem witness_OnlyTheNamedInstructionsWriteEachPart : ∃ t, exec (.jp 0x200) State.reset = .next t := ⟨_, rfl⟩

theorem witness_OnlyFlagWritersWriteVf :
    ∃ t, exec (.ldVxNn 1 2) State.reset = .next t ∧ (Instr.ldVxNn 1 2) ≠ .ldVxNn vF 2 := ⟨_, rfl, by decide⟩

theorem witness_ReportsAndAgendaAreNotReadByInstructions : ∃ t, exec (.rnd 1 2) State.reset = .next t := ⟨_, rfl⟩

theorem witness_OnlyKeyLookupsReadTheTime :
    (∀ x, (Instr.ldVxK 2) ≠ .skp x ∧ (Instr.ldVxK 2) ≠ .sknp x) ∧ ∃ t, exec (.ldVxK 2) State.reset = .next t :=
  ⟨fun _ => ⟨by simp, by simp⟩, _, rfl⟩

/-- D-JP-2, and a jump to itself at the last address a jump reaches. -/
theorem witness_JumpToSelfIsAFixedPoint :
    (State.reset.withFetchWord 16 0x1200).atEnd = true ∧ (State.reset.withFetchWord 16 0x1200).turn = .cpu ∧
    ((State.reset.setPc 0xFFE).withFetchWord 16 0x1FFE).atEnd = true ∧
    (State.reset.withFetchWord 16 0x1202).atEnd = false := by decide

end Sys2Proof.Tests
end

section
/-!
PROOFS. Scope (spec/00_scope.md): the reset state meets the invariant (R6, R7), and the agents beside the CPU leave the
CPU's state alone (R15). What each of these agents keeps is a frame lemma of its own.
-/

namespace Sys2Proof.Machine

/-! ### The state after reset -/

/-- Settles O9: every part of the invariant holds of the empty memory, stack and key set and of the blank grid. -/
theorem resetMeetsTheInvariant : Obligations.ResetMeetsTheInvariant := by
  unfold Obligations.ResetMeetsTheInvariant
  refine ⟨by decide, fun c hc => State.inv_iff.2 ⟨hc, wf_nil c, ?_, ?_, ?_, ?_⟩⟩
  · exact Nat.zero_le _
  · exact List.length_replicate
  · exact List.forall_mem_nil _
  · exact (haltAgrees_iff_of_not_halted Run.noConfusion).2 rfl

/-! ### The frame of each agent beside the CPU -/

/-- A frame may be weakened: naming more parts claims less. -/
theorem KeepsParts.mono {ps qs : List Part} {s t : State} (hsub : ps ⊆ qs) (h : KeepsParts ps s t) :
    KeepsParts qs s t := by
  have hnot : ∀ {p : Part}, p ∉ qs → p ∉ ps := fun hq hp => hq (hsub hp)
  obtain ⟨hpc, hi, hdt, hst, hstack, hdisp, hkeys, hrun, hfault, hcfg, hnow, hagenda, hdraws, hreports⟩ := h
  exact ⟨hpc ∘ hnot, hi ∘ hnot, hdt ∘ hnot, hst ∘ hnot, hstack ∘ hnot, hdisp ∘ hnot, hkeys ∘ hnot, hrun ∘ hnot,
    hfault ∘ hnot, hcfg ∘ hnot, hnow ∘ hnot, hagenda ∘ hnot, hdraws ∘ hnot, hreports ∘ hnot⟩

/-- TIMER's step with its turn taken (spec/60_exceptions.md R255). -/
theorem timerTick_frame (s : State) : OnlyParts [.dt, .st, .agenda] s (timerTick s.popTurn) := by
  refine ⟨?_, fun _ _ => rfl, fun _ => rfl⟩
  simp [KeepsParts]

/-- TIME's step with its turn taken (spec/60_exceptions.md R262). -/
theorem timePasses_frame (d : Nat) (s : State) : OnlyParts [.now, .agenda] s (timePasses d s.popTurn) := by
  refine ⟨?_, fun _ _ => rfl, fun _ => rfl⟩
  simp [KeepsParts]

/-- KEY's step with its turn taken, beside the registers (spec/60_exceptions.md R258). -/
theorem keyEvent_frame (c : Nibble) (s : State) :
    KeepsMem s (keyEvent c s.popTurn) ∧ KeepsParts [.keys, .run, .agenda] s (keyEvent c s.popTurn) := by
  constructor
  · intro a
    simp
  · simp [KeepsParts]

/-- A key is delivered only to the wait slot's own register (spec/60_exceptions.md R258). -/
theorem keyEvent_reg_of_ne_waitKey {s : State} {r : Reg} (c : Nibble) (h : s.run ≠ .waitKey r) :
    (keyEvent c s).reg r = s.reg r := by
  cases hrun : s.run with
  | running => simp [keyEvent_noWait c (.inl hrun)]
  | halted => simp [keyEvent_noWait c (.inr hrun)]
  | waitKey x =>
    have hne : r ≠ x := by
      rintro rfl
      exact h hrun
    rw [keyEvent_waitKey c hrun]
    split <;> simp [setReg_reg_ne _ _ hne]

/-- Settles O52: one case per agent, each by the agent's frame; only KEY can reach a register, and only the one that the
wait slot names. -/
theorem otherAgentsLeaveCpuStateAlone : Obligations.OtherAgentsLeaveCpuStateAlone := by
  unfold Obligations.OtherAgentsLeaveCpuStateAlone
  intro s t hcpu hreset hstep
  obtain ⟨hturn, -⟩ | ⟨hturn, rfl⟩ | ⟨c, hturn, rfl⟩ | ⟨d, hturn, rfl⟩ | ⟨prog, hturn, -⟩ := step_cases hstep
  · exact absurd hturn hcpu
  · obtain ⟨hparts, hregs, hmem⟩ := timerTick_frame s
    exact ⟨hmem, hparts.mono (by simp), fun hno => absurd hturn hno, fun _ => ⟨rfl, rfl⟩,
      fun r hr => absurd (hregs r List.not_mem_nil) hr⟩
  · obtain ⟨hmem, hparts⟩ := keyEvent_frame c s
    refine ⟨hmem, hparts.mono (by simp), fun _ => by simp, fun hno => absurd hturn (hno c),
      fun r hr => ⟨?_, c, hturn⟩⟩
    by_contra hwait
    exact hr (keyEvent_reg_of_ne_waitKey (s := s.popTurn) c hwait)
  · obtain ⟨hparts, hregs, hmem⟩ := timePasses_frame d s
    exact ⟨hmem, hparts.mono (by simp), fun _ => ⟨rfl, rfl⟩, fun _ => ⟨rfl, rfl⟩,
      fun r hr => absurd (hregs r List.not_mem_nil) hr⟩
  · exact absurd hturn (hreset prog)

end Sys2Proof.Machine
end

section
/-!
PROOFS. State (spec/10_state.md): a call and its return (R30, R31); what an instruction can do to the parts that the
invariant speaks of, said once, and from it the step lemma of the invariant (R33, R35, R47), the run state (R45) and the
`fault` register (R46); the canonical form of memory (R47); `SetPixel` (R36); eviction (R43); and VF (R23).
-/

namespace Sys2Proof.Machine

/-! ### A call and a return -/

/-- 2nnn with room on the stack (spec/10_state.md R30). -/
theorem exec_call_of_room {s : State} (nnn : Addr12) (h : s.stack.length < s.cfg.stackCap) :
    exec (.call nnn) s = .next ((s.setStack (s.stack ++ [s.pc])).setPc (absAddr nnn)) := by
  simp only [exec, execCall, stackPush_room h]

/-- 00EE with an address on the stack (spec/10_state.md R31). -/
theorem exec_ret_of_append {s : State} {below : List Word} {a : Word} (h : s.stack = below ++ [a]) :
    exec .ret s = .next ((s.setStack below).setPc a) := by
  simp only [exec, execRet, h, stackPop_append]

/-- Settles O24: the return pops what the call pushed, and the two together write `pc` and the stack back. -/
theorem returnUndoesCall : Obligations.ReturnUndoesCall := by
  unfold Obligations.ReturnUndoesCall
  intro nnn s hroom
  refine ⟨_, s, exec_call_of_room nnn hroom, exec_ret_of_append rfl, rfl, rfl, ?_, fun _ _ => rfl, fun _ => rfl⟩
  simp [KeepsParts]

/-- A call pushes where there is room and jumps, or halts (spec/10_state.md R30). -/
theorem exec_call_cases {nnn : Addr12} {s t : State} (h : exec (.call nnn) s = .next t) :
    (s.stack.length < s.cfg.stackCap ∧ t = (s.setStack (s.stack ++ [s.pc])).setPc (absAddr nnn)) ∨
    (s.cfg.stackCap ≤ s.stack.length ∧ t = s.raise .stackOverflow) := by
  by_cases hroom : s.stack.length < s.cfg.stackCap
  · rw [exec_call_of_room nnn hroom] at h
    cases h
    exact .inl ⟨hroom, rfl⟩
  · have hfull : s.cfg.stackCap ≤ s.stack.length := Nat.not_lt.1 hroom
    simp only [exec, execCall, stackPush_full hfull] at h
    cases h
    exact .inr ⟨hfull, rfl⟩

/-- A return pops an address into `pc`, or halts on an empty stack (spec/10_state.md R31). -/
theorem exec_ret_cases {s t : State} (h : exec .ret s = .next t) :
    (∃ below a, s.stack = below ++ [a] ∧ t = (s.setStack below).setPc a) ∨
    (s.stack = [] ∧ t = s.raise .stackUnderflow) := by
  obtain hempty | ⟨below, a, hstack⟩ := List.eq_nil_or_concat' s.stack
  · simp only [exec, execRet, hempty, stackPop_empty] at h
    cases h
    exact .inr ⟨hempty, rfl⟩
  · rw [exec_ret_of_append hstack] at h
    cases h
    exact .inl ⟨below, a, hstack, rfl⟩

/-! ### What an instruction can do to the parts under the invariant -/

/-- The instruction from `s` to `t` has run to its end without a halt or a wait: `run`, `fault`, the parameters and the
time stay, and the other parts under the invariant stay legal. -/
structure Completes (s t : State) : Prop where
  run : t.run = s.run
  fault : t.fault = s.fault
  cfg : t.cfg = s.cfg
  now : t.now = s.now
  mem : Memory.wf s.cfg s.mem = true → Memory.wf s.cfg t.mem = true
  stack : s.stack.length ≤ s.cfg.stackCap → t.stack.length ≤ s.cfg.stackCap
  disp : t.disp.length = s.disp.length
  keys : ∀ e ∈ t.keys, e ∈ s.keys

/-- The three ways an instruction ends: a structural violation, whose address is outside memory (spec/60_exceptions.md
R242), the wait that Fx0A arms (spec/44_keys_timers.md R212), or completion. -/
def EndsLegally (i : Instr) (s t : State) : Prop :=
  (∃ f, t = s.raise f ∧ ∀ a, f = .memOutOfBounds a → s.cfg.memSize ≤ a) ∨
  (∃ x, i = .ldVxK x ∧ t = s.setRun (.waitKey x)) ∨
  Completes s t

/-- An instruction that touches registers, `pc`, `I`, the timers and the `rand` port only leaves the invariant's parts
alone. -/
theorem endsLegally_of_keeps {i : Instr} {s t : State} (hmem : t.mem = s.mem)
    (hparts : KeepsParts [.pc, .i, .dt, .st, .draws] s t) : EndsLegally i s t := by
  obtain ⟨-, -, -, -, hstack, hdisp, hkeys, hrun, hfault, hcfg, hnow, -⟩ := hparts
  exact .inr (.inr {
    run := hrun (by decide)
    fault := hfault (by decide)
    cfg := hcfg (by decide)
    now := hnow (by decide)
    mem := fun h => hmem ▸ h
    stack := fun h => hstack (by decide) ▸ h
    disp := congrArg _ (hdisp (by decide))
    keys := fun _ h => hkeys (by decide) ▸ h })

/-- An instruction with a range from `I` either halts on an address outside memory, or has its effect, the range being
inside (spec/20_memory.md R68). -/
theorem endsLegally_withIndexRange {i : Instr} {s t u : State} {last : Nat} (h : withIndexRange s last u = .next t)
    (hu : s.i.toNat + last < s.cfg.memSize → EndsLegally i s u) : EndsLegally i s t := by
  obtain ⟨-, rfl⟩ | ⟨hin, rfl⟩ := withIndexRange_cases h
  · refine .inl ⟨_, rfl, fun a ha => ?_⟩
    cases ha
    exact Nat.le_max_right _ _
  · exact hu hin

/-- A store inside memory keeps the canonical form (spec/20_memory.md R65). -/
theorem endsLegally_store {i : Instr} {s : State} {a : Nat} {bs : List Byte} (h : a + bs.length ≤ s.cfg.memSize) :
    EndsLegally i s (s.store a bs) :=
  .inr (.inr ⟨rfl, rfl, rfl, rfl, fun hm => wf_writeBytes hm a bs h, id, rfl, fun _ => id⟩)

/-- A draw toggles cells of the grid and keeps its size (spec/43_display.md R193). -/
theorem endsLegally_drawn {i : Instr} (x y : Reg) (n : Nat) (s : State) : EndsLegally i s (drawn x y n s) :=
  .inr (.inr ⟨rfl, rfl, rfl, rfl, id, id, drawSprite_length _ _ _ _ _, fun _ => id⟩)

/-- A key look-up only takes entries out of the debounce set (spec/10_state.md R42). -/
theorem endsLegally_keyLookup {i : Instr} (s : State) (c : Bool) : EndsLegally i s (s.keysEvict.skipIf c) :=
  .inr (.inr (by constructor <;> simp +contextual))

/-- 2nnn pushes only where there is room (spec/10_state.md R30). -/
theorem endsLegally_call {nnn : Addr12} {s t : State} (h : exec (.call nnn) s = .next t) :
    EndsLegally (.call nnn) s t := by
  obtain ⟨hroom, rfl⟩ | ⟨-, rfl⟩ := exec_call_cases h
  · exact .inr (.inr ⟨rfl, rfl, rfl, rfl, id, fun _ => by simpa using hroom, rfl, fun _ => id⟩)
  · exact .inl ⟨_, rfl, nofun⟩

/-- 00EE takes an address off the stack, or halts on an empty one (spec/10_state.md R31). -/
theorem endsLegally_ret {s t : State} (h : exec .ret s = .next t) : EndsLegally .ret s t := by
  obtain ⟨below, a, hstack, rfl⟩ | ⟨-, rfl⟩ := exec_ret_cases h
  · refine .inr (.inr ⟨rfl, rfl, rfl, rfl, id, fun hcap => ?_, rfl, fun _ => id⟩)
    simp only [hstack, List.length_append] at hcap
    exact Nat.le_of_add_right_le hcap
  · exact .inl ⟨_, rfl, nofun⟩

/-- Every instruction ends in one of the three ways. -/
theorem exec_endsLegally {i : Instr} {s t : State} (h : exec i s = .next t) : EndsLegally i s t := by
  cases i with
  | ret => exact endsLegally_ret h
  | call nnn => exact endsLegally_call h
  | cls =>
    cases h
    exact .inr (.inr ⟨rfl, rfl, rfl, rfl, id, id, clearDisplay_length _, fun _ => id⟩)
  | drw x y n =>
    simp only [exec, execDrw] at h
    split at h
    · cases h
      exact endsLegally_drawn x y 0 s
    · exact endsLegally_withIndexRange h fun _ => endsLegally_drawn x y n.toNat s
  | skp x | sknp x =>
    cases h
    exact endsLegally_keyLookup s _
  | ldVxK x =>
    cases h
    exact .inr (.inl ⟨x, rfl, rfl⟩)
  | ldBVx x =>
    exact endsLegally_withIndexRange h fun hin => endsLegally_store (by rw [bcdDigits_length]; exact hin)
  | ldMemVx x =>
    exact endsLegally_withIndexRange h fun hin => endsLegally_store (by rw [regsUpTo_length]; exact hin)
  | ldVxMem x =>
    exact endsLegally_withIndexRange h fun _ => endsLegally_of_keeps (by simp) (by simp [KeepsParts])
  | addIVx x =>
    simp only [exec, execAddIVx] at h
    split at h <;> cases h <;> exact endsLegally_of_keeps rfl (by simp [KeepsParts])
  | seVxNn x nn | sneVxNn x nn | seVxVy x y | sneVxVy x y =>
    cases h
    exact endsLegally_of_keeps (by simp) (by simp [KeepsParts])
  | rnd x nn =>
    cases h
    exact endsLegally_of_keeps rfl (by simp [KeepsParts, rndWith])
  | jp nnn | jpV0 nnn | ldI nnn | ldFVx x | ldDtVx x | ldStVx x | ldVxDt x | ldVxNn x nn | addVxNn x nn
  | ldVxVy x y | orVxVy x y | andVxVy x y | xorVxVy x y | addVxVy x y | subVxVy x y | subnVxVy x y | shrVxVy x y | shlVxVy x y =>
    cases h
    exact endsLegally_of_keeps rfl (by simp [KeepsParts])

/-! ### Every step keeps the invariant -/

/-- In RUNNING a legal state has no fault (spec/10_state.md R46). -/
theorem fault_none_of_running {s : State} (hinv : s.inv = true) (hrun : s.run = .running) : s.fault = none := by
  obtain ⟨-, -, -, -, -, hhalt⟩ := State.inv_iff.1 hinv
  exact (haltAgrees_iff_of_not_halted (by simp [hrun])).1 hhalt

/-- The halt keeps the invariant if its address, where it has one, is outside memory (spec/60_exceptions.md R242). -/
theorem inv_raise {s : State} (hinv : s.inv = true) {f : HaltCause}
    (hf : ∀ a, f = .memOutOfBounds a → s.cfg.memSize ≤ a) : (s.raise f).inv = true := by
  obtain ⟨hcfg, hmem, hstack, hdisp, hkeys, -⟩ := State.inv_iff.1 hinv
  exact State.inv_iff.2 ⟨hcfg, hmem, hstack, hdisp, hkeys, (haltAgrees_iff_of_halted rfl).2 ⟨f, rfl, hf⟩⟩

/-- Going between RUNNING and WAIT_KEY keeps the invariant: neither has a fault. -/
theorem inv_setRun {s : State} {r : Run} (hinv : s.inv = true) (hs : s.run ≠ .halted) (hr : r ≠ .halted) :
    (s.setRun r).inv = true := by
  obtain ⟨hcfg, hmem, hstack, hdisp, hkeys, hhalt⟩ := State.inv_iff.1 hinv
  have hfault : s.fault = none := (haltAgrees_iff_of_not_halted hs).1 hhalt
  exact State.inv_iff.2 ⟨hcfg, hmem, hstack, hdisp, hkeys, (haltAgrees_iff_of_not_halted hr).2 hfault⟩

/-- `fault` agrees with `run` in terms of these two parts and the parameters alone. -/
theorem haltAgrees_congr {s t : State} (hrun : t.run = s.run) (hfault : t.fault = s.fault) (hcfg : t.cfg = s.cfg) :
    haltAgrees t = haltAgrees s := by
  simp only [haltAgrees, hrun, hfault, hcfg]

/-- A completed instruction keeps the invariant. -/
theorem Completes.inv {s t : State} (h : Completes s t) (hinv : s.inv = true) : t.inv = true := by
  obtain ⟨hcfg, hmem, hstack, hdisp, hkeys, hhalt⟩ := State.inv_iff.1 hinv
  rw [State.inv_iff, h.cfg, h.now, h.disp, haltAgrees_congr h.run h.fault h.cfg]
  exact ⟨hcfg, h.mem hmem, h.stack hstack, hdisp, fun e he => hkeys e (h.keys e he), hhalt⟩

/-- An instruction executed in RUNNING keeps the invariant. -/
theorem inv_exec {i : Instr} {s t : State} (hinv : s.inv = true) (hrun : s.run = .running)
    (h : exec i s = .next t) : t.inv = true := by
  obtain ⟨f, rfl, hf⟩ | ⟨x, -, rfl⟩ | hdone := exec_endsLegally h
  · exact inv_raise hinv hf
  · exact inv_setRun hinv (by simp [hrun]) nofun
  · exact hdone.inv hinv

/-- The address that a failed fetch reports is outside memory (spec/20_memory.md R66). -/
theorem memSize_le_of_fetchWord_error {s : State} {a : Nat} (h : fetchWord s = .error a) : s.cfg.memSize ≤ a := by
  by_cases hlow : s.cfg.memSize ≤ s.pc.toNat
  · rw [fetchWord_error_low hlow] at h
    cases h
    exact hlow
  · by_cases hhigh : s.cfg.memSize ≤ s.pc.toNat + 1
    · rw [fetchWord_error_high (Nat.not_le.1 hlow) hhigh] at h
      cases h
      exact hhigh
    · rw [fetchWord_ok (Nat.not_le.1 hhigh)] at h
      cases h

/-- The CPU's step keeps the invariant. -/
theorem inv_cpuStep {s t : State} (hinv : s.inv = true) (h : cpuStep s = .next t) : t.inv = true := by
  obtain ⟨hrun, ⟨a, ha, rfl⟩ | ⟨w, -, -, rfl⟩ | ⟨w, i, -, -, hexec⟩⟩ := cpuStep_cases h
  · refine inv_raise hinv fun b hb => ?_
    cases hb
    exact memSize_le_of_fetchWord_error ha
  · exact hinv
  · exact inv_exec (s := s.advance) hinv hrun hexec

/-- A press recorded now is not in the future (spec/60_exceptions.md R262). -/
theorem inv_keysAdd {s : State} (hinv : s.inv = true) (c : Nibble) : (s.keysAdd c).inv = true := by
  obtain ⟨hcfg, hmem, hstack, hdisp, hkeys, hhalt⟩ := State.inv_iff.1 hinv
  refine State.inv_iff.2 ⟨hcfg, hmem, hstack, hdisp, fun e he => ?_, hhalt⟩
  obtain he | he := List.mem_append.1 he
  · exact hkeys e he
  · rw [List.mem_singleton.1 he]
    exact Nat.le_refl _

/-- The KEY agent's step keeps the invariant. -/
theorem inv_keyEvent {s : State} (hinv : s.inv = true) (c : Nibble) : (keyEvent c s).inv = true := by
  cases hrun : s.run with
  | running => exact keyEvent_noWait c (.inl hrun) ▸ inv_keysAdd hinv c
  | halted => exact keyEvent_noWait c (.inr hrun) ▸ inv_keysAdd hinv c
  | waitKey x =>
    have hlifted : ((s.setReg x (c.setWidth 8)).setRun .running).inv = true :=
      inv_setRun (s := s.setReg x (c.setWidth 8)) hinv (by simp [hrun]) nofun
    rw [keyEvent_waitKey c hrun]
    split
    · exact inv_keysAdd hlifted c
    · exact hlifted

/-- Time only moves away from the recorded presses (spec/60_exceptions.md R262). -/
theorem inv_timePasses {s : State} (hinv : s.inv = true) (d : Nat) : (timePasses d s).inv = true := by
  obtain ⟨hcfg, hmem, hstack, hdisp, hkeys, hhalt⟩ := State.inv_iff.1 hinv
  exact State.inv_iff.2 ⟨hcfg, hmem, hstack, hdisp, fun e he => Nat.le_add_right_of_le (hkeys e he), hhalt⟩

/-- A reset with an image that fits meets the invariant: it is the reset state with the image in its memory
(spec/70_reset_and_hazards.md R272). -/
theorem inv_rebooted {s : State} {prog : List Byte} (hcfg : s.cfg.wf = true) (hfit : s.cfg.imageFits prog = true) :
    (rebooted prog s).inv = true := by
  have hreset : (State.resetOf s.cfg).inv = true := resetMeetsTheInvariant.2 s.cfg hcfg
  obtain ⟨-, -, hstack, hdisp, -, hhalt⟩ := State.inv_iff.1 hreset
  exact State.inv_iff.2 ⟨hcfg, wf_writeBytes (wf_nil s.cfg) _ _ ((Config.imageFits_end hcfg).1 hfit), hstack, hdisp,
    List.forall_mem_nil _, hhalt⟩

/-- Settles O10: one case per agent, each by its own lemma; the CPU's through the three ways an instruction ends. -/
theorem stepKeepsTheInvariant : Obligations.StepKeepsTheInvariant := by
  unfold Obligations.StepKeepsTheInvariant
  intro s t hinv hstep
  have hpop : s.popTurn.inv = true := hinv
  obtain ⟨-, hcpu⟩ | ⟨-, rfl⟩ | ⟨c, -, rfl⟩ | ⟨d, -, rfl⟩ | ⟨prog, -, hfit, rfl⟩ := step_cases hstep
  · exact inv_cpuStep hpop hcpu
  · exact hpop
  · exact inv_keyEvent hpop c
  · exact inv_timePasses hpop d
  · exact inv_rebooted (State.inv_iff.1 hpop).1 hfit

/-! ### The run state and the `fault` register -/

/-- An agent beside the CPU and the reset leaves `fault` alone (spec/10_state.md R46). -/
theorem fault_of_otherAgent {s t : State} (hcpu : s.turn ≠ .cpu) (hreset : ∀ prog, s.turn ≠ .reset prog)
    (hstep : step s = .next t) : t.fault = s.fault := by
  obtain ⟨-, hparts, -⟩ := otherAgentsLeaveCpuStateAlone s t hcpu hreset hstep
  obtain ⟨-, -, -, -, -, -, -, -, hfault, -⟩ := hparts
  exact hfault (by decide)

/-- The KEY agent's step from RUNNING or HALTED leaves `run` alone (spec/60_exceptions.md R258). -/
theorem keyEvent_run_of_noWait {s : State} (c : Nibble) (h : s.run = .running ∨ s.run = .halted) :
    (keyEvent c s).run = s.run := by
  rw [keyEvent_noWait c h, keysAdd_run]

/-- The KEY agent's step lifts a wait (spec/60_exceptions.md R258). -/
theorem keyEvent_run_of_waitKey {s : State} {x : Reg} (c : Nibble) (h : s.run = .waitKey x) :
    (keyEvent c s).run = .running := by
  rw [keyEvent_waitKey c h]
  split <;> rfl

/-- The CPU's step goes on in RUNNING with `fault` as it was, halts with a cause, or arms the wait of a fetched Fx0A
(spec/10_state.md R45, R46). -/
theorem cpuStep_run {s t : State} (h : cpuStep s = .next t) : s.run = .running ∧
    ((t.run = .running ∧ t.fault = s.fault) ∨ (t.run = .halted ∧ t.fault ≠ none) ∨
      ∃ x w, fetchWord s = .ok w ∧ decode w = some (.ldVxK x) ∧ t.run = .waitKey x ∧ t.fault = s.fault) := by
  obtain ⟨hrun, ⟨a, -, rfl⟩ | ⟨w, -, -, rfl⟩ | ⟨w, i, hw, hi, hexec⟩⟩ := cpuStep_cases h
  · exact ⟨hrun, .inr (.inl ⟨rfl, nofun⟩)⟩
  · exact ⟨hrun, .inl ⟨hrun, rfl⟩⟩
  · refine ⟨hrun, ?_⟩
    obtain ⟨f, rfl, -⟩ | ⟨x, rfl, rfl⟩ | hdone := exec_endsLegally hexec
    · exact .inr (.inl ⟨rfl, nofun⟩)
    · exact .inr (.inr ⟨x, w, hw, hi, rfl, rfl⟩)
    · exact .inl ⟨hdone.run.trans hrun, hdone.fault⟩

/-- Settles O16: one case per agent; only the CPU, the KEY agent and the reset write `run`. -/
theorem runStateTransitions : Obligations.RunStateTransitions := by
  unfold Obligations.RunStateTransitions
  refine ⟨rfl, fun s t hstep => ?_⟩
  obtain ⟨hturn, hcpu⟩ | ⟨hturn, rfl⟩ | ⟨c, hturn, rfl⟩ | ⟨d, hturn, rfl⟩ | ⟨prog, hturn, -, rfl⟩ := step_cases hstep
  · obtain ⟨hrun, hend⟩ := cpuStep_run hcpu
    replace hrun : s.run = .running := hrun
    refine ⟨fun _ => hrun, by simp [hturn], fun _ => ⟨by simp [hrun], by simp [hrun], fun _ => ?_⟩⟩
    obtain ⟨hgo, -⟩ | ⟨hhalt, hcause⟩ | ⟨x, w, hw, hi, hwait, -⟩ := hend
    · exact .inl hgo
    · exact .inr (.inr ⟨hturn, hhalt, hcause⟩)
    · exact .inr (.inl ⟨x, w, hturn, hw, hi, hwait⟩)
  · refine ⟨by simp [hturn], by simp [hturn], fun _ => ⟨id, fun x hx => .inr ⟨by simp [hturn], hx⟩, .inl⟩⟩
  · refine ⟨by simp [hturn], by simp [hturn], fun _ => ⟨fun hrun => ?_, fun x hrun => ?_, fun hrun => ?_⟩⟩
    · exact (keyEvent_run_of_noWait (s := s.popTurn) c (.inr hrun)).trans hrun
    · exact .inl ⟨c, hturn, keyEvent_run_of_waitKey (s := s.popTurn) c hrun⟩
    · exact .inl ((keyEvent_run_of_noWait (s := s.popTurn) c (.inl hrun)).trans hrun)
  · refine ⟨by simp [hturn], by simp [hturn], fun _ => ⟨id, fun x hx => .inr ⟨by simp [hturn], hx⟩, .inl⟩⟩
  · exact ⟨by simp [hturn], fun _ _ => rfl, fun hno => absurd hturn (hno prog)⟩

/-- The port shows the address of a `MemOutOfBounds` where 16 bits hold it (spec/60_exceptions.md R242). -/
theorem causeInfo_memOutOfBounds {a : Nat} (h : a ≤ 0xFFFF) : (causeInfo (some (.memOutOfBounds a))).toNat = a := by
  have hlt : a < 65536 := Nat.lt_succ_of_le h
  simp [causeInfo, hlt]

/-- Settles O17: only the CPU's step reaches `fault`, from RUNNING, where the invariant says there is none yet. -/
theorem faultIsWrittenOnceAtTheHalt : Obligations.FaultIsWrittenOnceAtTheHalt := by
  unfold Obligations.FaultIsWrittenOnceAtTheHalt
  refine ⟨rfl, rfl, rfl, fun a => ⟨rfl, causeInfo_memOutOfBounds⟩, fun s t hinv hreset hstep => ?_⟩
  by_cases hturn : s.turn = .cpu
  · rw [step_eq, hturn] at hstep
    obtain ⟨hrun, hend⟩ := cpuStep_run hstep
    have hnone : s.fault = none := fault_none_of_running hinv hrun
    refine ⟨absurd hnone, fun hchanged => ⟨hnone, hrun, ?_⟩⟩
    obtain ⟨-, hsame⟩ | ⟨hhalt, -⟩ | ⟨x, w, -, -, -, hsame⟩ := hend
    · exact absurd hsame hchanged
    · exact hhalt
    · exact absurd hsame hchanged
  · have hsame := fault_of_otherAgent hturn hreset hstep
    exact ⟨fun _ => hsame, absurd hsame⟩

/-! ### The canonical form of memory is canonical -/

/-- A listed byte is an entry of the list. -/
theorem mem_of_find {m : Memory} {a : Nat} {u : Byte} (h : Memory.find m a = some u) : (a, u) ∈ m := by
  induction m with
  | nil => cases h
  | cons e m ih =>
    obtain ⟨b, w⟩ := e
    simp only [Memory.find] at h
    split at h
    · rename_i hb
      cases h
      exact hb ▸ List.mem_cons_self
    · exact List.mem_cons_of_mem _ (ih h)

/-- A listed byte is in memory, and it is what the address reads as and not what an unlisted one would. -/
theorem read_of_find {c : Config} {m : Memory} (hm : Memory.entriesOk c m) {a : Nat} {u : Byte}
    (h : Memory.find m a = some u) : a < c.memSize ∧ Memory.read c m a = u ∧ u ≠ Memory.unlisted c a := by
  obtain ⟨ha, hu⟩ := hm _ (mem_of_find h)
  exact ⟨ha, by simp [Memory.read, h], hu⟩

/-- A byte that one of two memories reading alike lists is listed by the other. -/
theorem find_of_reads_alike {c : Config} {m m' : Memory} (hm : Memory.entriesOk c m)
    (hread : ∀ a < c.memSize, Memory.read c m a = Memory.read c m' a) {a : Nat} {u : Byte}
    (h : Memory.find m a = some u) : Memory.find m' a = some u := by
  obtain ⟨ha, hu, hne⟩ := read_of_find hm h
  have hu' : Memory.read c m' a = u := hread a ha ▸ hu
  cases hfind : Memory.find m' a with
  | none => exact absurd (by simpa [Memory.read, hfind] using hu'.symm) hne
  | some w => simpa [Memory.read, hfind] using hu'

/-- The first address of a rising list is the lowest that it lists. -/
theorem head_le_of_find {lo : Option Nat} {b a : Nat} {u w : Byte} {m : Memory}
    (hr : Memory.rising lo ((b, u) :: m) = true) (h : Memory.find ((b, u) :: m) a = some w) : b ≤ a := by
  by_contra hlt
  have hr' : Memory.rising (some a) ((b, u) :: m) = true :=
    rising_cons.2 ⟨fun l hl => by cases hl; omega, (rising_cons.1 hr).2⟩
  rw [find_none_of_rising hr' a (Nat.le_refl a)] at h
  cases h

/-- The head of a list is what it lists at its address. -/
theorem find_head (b : Nat) (u : Byte) (m : Memory) : Memory.find ((b, u) :: m) b = some u := by
  simp [Memory.find]

/-- The tail of a rising list lists what the list does, but for the head's address. -/
theorem find_tail {lo : Option Nat} {b : Nat} {u : Byte} {m : Memory}
    (hr : Memory.rising lo ((b, u) :: m) = true) (a : Nat) :
    Memory.find m a = if a = b then none else Memory.find ((b, u) :: m) a := by
  split
  · rename_i hab
    exact find_none_of_rising (rising_cons.1 hr).2 a (Nat.le_of_eq hab)
  · rename_i hab
    simp [Memory.find, Ne.symm hab]

/-- Rising lists that list the same bytes are the same list. -/
theorem eq_of_find_eq {lo lo' : Option Nat} {m m' : Memory} (hr : Memory.rising lo m = true)
    (hr' : Memory.rising lo' m' = true) (h : ∀ a, Memory.find m a = Memory.find m' a) : m = m' := by
  induction m generalizing lo lo' m' with
  | nil =>
    cases m' with
    | nil => rfl
    | cons e' m' => exact absurd (h e'.1) (by simp [Memory.find])
  | cons e m ih =>
    cases m' with
    | nil => exact absurd (h e.1) (by simp [Memory.find])
    | cons e' m' =>
      obtain ⟨b, u⟩ := e
      obtain ⟨b', u'⟩ := e'
      have hb : b = b' := Nat.le_antisymm
        (head_le_of_find hr ((h b').trans (find_head b' u' m')))
        (head_le_of_find hr' ((h b).symm.trans (find_head b u m)))
      subst hb
      have hu : u = u' := by simpa [find_head] using h b
      have hm : m = m' := ih (rising_cons.1 hr).2 (rising_cons.1 hr').2 fun a => by
        rw [find_tail hr, find_tail hr', h]
      rw [hu, hm]

/-- Settles O11: memories in canonical form that read alike list the same bytes, and they list them in one order. -/
theorem memoriesReadingAlikeAreEqual : Obligations.MemoriesReadingAlikeAreEqual := by
  unfold Obligations.MemoriesReadingAlikeAreEqual
  intro c m m' hm hm' hread
  obtain ⟨hr, hok⟩ := wf_iff.1 hm
  obtain ⟨hr', hok'⟩ := wf_iff.1 hm'
  refine eq_of_find_eq hr hr' fun a => Option.ext fun u => ?_
  exact ⟨find_of_reads_alike hok hread, find_of_reads_alike hok' fun b hb => (hread b hb).symm⟩

/-! ### The display -/

/-- Within its precondition `SetPixel` acts on the cell at the coordinates modulo the grid (spec/10_state.md R36). -/
theorem setPixel_eq_mod (c : Config) (d : List Bool) {x y : Nat} (hx : x < 2 * c.cols) (hy : y < 2 * c.rows) :
    setPixel c d x y = setPixel c d (x % c.cols) (y % c.rows) := by
  have hx' : x % c.cols < c.cols := Nat.mod_lt _ (by omega)
  have hy' : y % c.rows < c.rows := Nat.mod_lt _ (by omega)
  rw [setPixel_inside c d hx' hy']
  simp only [setPixel, wrapOnce_eq_mod hx, wrapOnce_eq_mod hy]

/-- Inside the grid `SetPixel` twice restores it, and the second answer is the opposite of what the cell held. -/
theorem setPixel_setPixel_inside (c : Config) {d : List Bool} {x y : Nat} (hx : x < c.cols) (hy : y < c.rows)
    (hd : d.length = c.rows * c.cols) :
    setPixel c (setPixel c d x y).1 x y = (d, !d.getD (y * c.cols + x) false) := by
  have hidx : y * c.cols + x < d.length := hd ▸ cellIndex_lt hx hy
  simp [setPixel_inside c _ hx hy, hidx]

/-- The cells after `SetPixel` inside the grid: its own is toggled, every other holds what it held. -/
theorem setPixel_getD_inside (c : Config) {d : List Bool} {x y cx cy : Nat} (hx : x < c.cols) (hy : y < c.rows)
    (hd : d.length = c.rows * c.cols) (hcx : cx < c.cols) :
    (setPixel c d x y).1.getD (cy * c.cols + cx) false =
      if cx = x ∧ cy = y then !d.getD (cy * c.cols + cx) false else d.getD (cy * c.cols + cx) false := by
  have hidx : y * c.cols + x < d.length := hd ▸ cellIndex_lt hx hy
  rw [setPixel_inside c d hx hy]
  by_cases hcell : cx = x ∧ cy = y
  · obtain ⟨rfl, rfl⟩ := hcell
    simp [hidx]
  · have hne : y * c.cols + x ≠ cy * c.cols + cx := fun h => by
      obtain ⟨hxe, hye⟩ := cellIndex_inj hx hcx h
      exact hcell ⟨hxe.symm, hye.symm⟩
    simp [hcell, hne]

/-- Settles O42: within the precondition the coordinates may be taken modulo the grid, and there `SetPixel` toggles one
cell. -/
theorem setPixelTogglesOneCell : Obligations.SetPixelTogglesOneCell := by
  unfold Obligations.SetPixelTogglesOneCell
  intro c d x y hd hx hy
  have hx' : x % c.cols < c.cols := Nat.mod_lt _ (by omega)
  have hy' : y % c.rows < c.rows := Nat.mod_lt _ (by omega)
  rw [setPixel_eq_mod c d hx hy, setPixel_eq_mod c _ hx hy]
  refine ⟨fun cx hcx cy _ => ⟨?_, fun hcell => ?_⟩, ?_, setPixel_setPixel_inside c hx' hy' hd⟩
  · rintro ⟨rfl, rfl⟩
    exact ⟨by rw [setPixel_inside c d hx' hy'], by rw [setPixel_getD_inside c hx' hy' hd hx', if_pos ⟨rfl, rfl⟩]⟩
  · rw [setPixel_getD_inside c hx' hy' hd hcx, if_neg hcell]
  · rw [setPixel_length, hd]

/-! ### The keys -/

/-- An entry that is live after some time was live before (spec/10_state.md R42). -/
theorem live_of_live_later {c : Config} {now d : Nat} {e : KeyEntry} (h : now + d - e.time ≤ c.keyTtlMs) :
    e.live c now = true := by
  simp only [KeyEntry.live, decide_eq_true_eq]
  omega

/-- Settles O46: what eviction takes out is stale, and a stale entry answers no look-up now or later. -/
theorem evictionIsNotObservable : Obligations.EvictionIsNotObservable := by
  unfold Obligations.EvictionIsNotObservable
  intro s d c
  rw [Bool.eq_iff_iff, keyPressed_iff, keyPressed_iff]
  constructor
  · rintro ⟨e, he, hlive, hcode⟩
    exact ⟨e, List.mem_of_mem_filter he, hlive, hcode⟩
  · rintro ⟨e, he, hlive, hcode⟩
    exact ⟨e, List.mem_filter.2 ⟨he, live_of_live_later hlive⟩, hlive, hcode⟩

/-! ### VF -/

/-- Fx65 keeps the registers above `x` (spec/42_index_memory.md R175). -/
theorem loadRegs_reg_above (s : State) {x r : Reg} (h : x.toNat < r.toNat) :
    (s.loadRegs 0 (s.indexBytes (x.toNat + 1))).reg r = s.reg r := by
  have hx : x.toNat < 16 := x.isLt
  rw [loadRegs_reg s 0 _ r (by rw [indexBytes_length]; omega), if_pos (Nat.zero_le _)]
  exact List.getD_eq_default _ _ (by rw [indexBytes_length]; exact h)

/-- VF is the last register: every other comes before it (spec/10_state.md R21). -/
theorem lt_vF_of_ne {x : Reg} (h : x ≠ vF) : x.toNat < vF.toNat := by
  have hx : x.toNat < 16 := x.isLt
  have hne : x.toNat ≠ 15 := fun e => h (BitVec.eq_of_toNat_eq e)
  simp only [vF, BitVec.toNat_ofNat]
  omega

/-- Settles O54: one case per instruction. A flag writer is ruled out, an instruction with a destination writes that
register, which is not VF, and every other writes no register. -/
theorem onlyFlagWritersWriteVf : Obligations.OnlyFlagWritersWriteVf := by
  unfold Obligations.OnlyFlagWritersWriteVf
  intro i s t hexec halu hdrw haddI hdest hdt hmem
  cases i with
  | addVxVy x y | subVxVy x y | subnVxVy x y | shrVxVy x y | shlVxVy x y => exact absurd (halu x y) (by simp)
  | drw x y n => exact absurd rfl (hdrw x y n)
  | addIVx x => exact absurd rfl (haddI x)
  | ldVxNn x nn | addVxNn x nn | rnd x nn =>
    cases hexec
    refine setReg_reg_ne s _ ?_
    rintro rfl
    exact absurd (hdest nn 0#4) (by simp)
  | ldVxVy x y | orVxVy x y | andVxVy x y | xorVxVy x y =>
    cases hexec
    refine setReg_reg_ne s _ ?_
    rintro rfl
    exact absurd (hdest 0#8 y) (by simp)
  | ldVxDt x =>
    cases hexec
    refine setReg_reg_ne s _ ?_
    rintro rfl
    exact hdt rfl
  | ldVxMem x =>
    have hne : x ≠ vF := fun h => hmem (congrArg _ h)
    obtain ⟨-, rfl⟩ | ⟨-, rfl⟩ := withIndexRange_cases hexec
    · exact raise_reg _ _ _
    · exact loadRegs_reg_above s (lt_vF_of_ne hne)
  | ldBVx x | ldMemVx x =>
    obtain ⟨-, rfl⟩ | ⟨-, rfl⟩ := withIndexRange_cases hexec
    · exact raise_reg _ _ _
    · exact store_reg _ _ _ _
  | call nnn => obtain ⟨-, rfl⟩ | ⟨-, rfl⟩ := exec_call_cases hexec <;> rfl
  | ret => obtain ⟨_, _, -, rfl⟩ | ⟨-, rfl⟩ := exec_ret_cases hexec <;> rfl
  | seVxNn x nn | sneVxNn x nn | seVxVy x y | sneVxVy x y | skp x | sknp x =>
    cases hexec
    exact skipIf_reg _ _ _
  | cls | jp nnn | jpV0 nnn | ldI nnn | ldFVx x | ldDtVx x | ldStVx x | ldVxK x =>
    cases hexec
    rfl

end Sys2Proof.Machine
end

section
/-!
PROOFS. Memory (spec/20_memory.md): the big-endian fetch and its bounds (R66); a store to the next instruction (R77); and
which instructions may change memory and each other part of the state (R62), from a table of the parts that each
instruction may write.
-/

namespace Sys2Proof.Machine

/-! ### The fetch -/

/-- The byte at the lower address is the high one (spec/20_memory.md R66). -/
theorem wordOfBytes_toNat (hi lo : Byte) : (wordOfBytes hi lo).toNat = 256 * hi.toNat + lo.toNat := by
  have happend : (wordOfBytes hi lo).toNat = hi.toNat <<< 8 ||| lo.toNat := BitVec.toNat_append hi lo
  rw [happend, ← Nat.shiftLeft_add_eq_or_of_lt lo.isLt, Nat.shiftLeft_eq, Nat.mul_comm]

/-- Raising a violation is the halt that the frame `HaltsWith` describes (spec/60_exceptions.md R241, R243). -/
theorem haltsWith_raise (f : HaltCause) (s : State) : HaltsWith f s (s.raise f) := by
  refine ⟨rfl, rfl, fun _ _ => rfl, fun _ => rfl, ?_⟩
  simp [KeepsParts]

/-- The CPU's turn in RUNNING with a fetch that leaves memory halts with the address the fetch reports
(spec/20_memory.md R66). -/
theorem step_of_fetchWord_error {s : State} {a : Nat} (hturn : s.turn = .cpu) (hrun : s.run = .running)
    (hfetch : fetchWord s = .error a) : step s = .next (s.popTurn.raise (.memOutOfBounds a)) := by
  have hrun' : s.popTurn.run = .running := hrun
  have hfetch' : fetchWord s.popTurn = .error a := hfetch
  simp only [step_eq, hturn, agentStep, cpuStep, hrun', hfetch']

/-- Settles O14: the three cases of the fetch, and a failed one halts the step. -/
theorem fetchIsBigEndianAndBoundsChecked : Obligations.FetchIsBigEndianAndBoundsChecked := by
  unfold Obligations.FetchIsBigEndianAndBoundsChecked
  intro s
  refine ⟨fun hin => ⟨_, fetchWord_ok hin, wordOfBytes_toNat _ _⟩, fun hturn hrun hlow => ?_,
    fun hturn hrun hlow hhigh => ?_⟩
  · exact ⟨_, step_of_fetchWord_error hturn hrun (fetchWord_error_low hlow), haltsWith_raise _ s.popTurn⟩
  · exact ⟨_, step_of_fetchWord_error hturn hrun (fetchWord_error_high hlow hhigh), haltsWith_raise _ s.popTurn⟩

/-! ### A store to the next instruction -/

/-- Fx55 with its range inside memory stores `V[0..=x]` from `I` up (spec/42_index_memory.md R174). -/
theorem exec_ldMemVx_of_inside {x : Reg} {s : State} (h : s.i.toNat + x.toNat < s.cfg.memSize) :
    exec (.ldMemVx x) s = .next (s.store s.i.toNat (s.regsUpTo x)) :=
  withIndexRange_in h _

/-- The byte `k` places above `I` after an Fx55 that covers it is `V[k]` (spec/42_index_memory.md R174). -/
theorem store_regsUpTo_byte {s : State} (hmem : Memory.wf s.cfg s.mem = true) {x : Reg} {k : Nat} (hk : k ≤ x.toNat) :
    (s.store s.i.toNat (s.regsUpTo x)).byte (s.i.toNat + k) = s.reg (BitVec.ofNat 4 k) := by
  rw [store_byte hmem, if_pos (Nat.le_add_right _ _), Nat.add_sub_cancel_left, regsUpTo_getD s hk]

/-- Settles O40: `pc` is `I`, so the next fetch reads the first two bytes stored. -/
theorem storeIsSeenByTheNextFetch : Obligations.StoreIsSeenByTheNextFetch := by
  unfold Obligations.StoreIsSeenByTheNextFetch
  intro x s hmem hx hin hpc
  refine ⟨_, exec_ldMemVx_of_inside hin, ?_⟩
  have hfetch : (s.store s.i.toNat (s.regsUpTo x)).pc.toNat + 1 < s.cfg.memSize := by
    rw [store_pc, hpc]
    omega
  have hfirst : (s.store s.i.toNat (s.regsUpTo x)).byte s.i.toNat = s.reg 0#4 :=
    store_regsUpTo_byte hmem (Nat.zero_le x.toNat)
  rw [fetchWord_ok hfetch, store_pc, hpc, hfirst, store_regsUpTo_byte hmem hx]

/-! ### The parts that each instruction may write -/

/-- The parts beside the registers and memory that an instruction may write, a halt's `run` and `fault` among them. -/
def writtenParts : Instr → List Part
  | .cls => [.disp]
  | .ret | .call _ => [.pc, .stack, .run, .fault]
  | .jp _ | .jpV0 _ | .seVxNn _ _ | .sneVxNn _ _ | .seVxVy _ _ | .sneVxVy _ _ => [.pc]
  | .skp _ | .sknp _ => [.pc, .keys]
  | .ldI _ | .addIVx _ | .ldFVx _ => [.i]
  | .rnd _ _ => [.draws]
  | .drw _ _ _ => [.disp, .run, .fault]
  | .ldDtVx _ => [.dt]
  | .ldStVx _ => [.st]
  | .ldVxK _ => [.run]
  | .ldBVx _ | .ldMemVx _ | .ldVxMem _ => [.run, .fault]
  | .ldVxNn _ _ | .addVxNn _ _ | .ldVxVy _ _ | .orVxVy _ _ | .andVxVy _ _ | .xorVxVy _ _ | .addVxVy _ _ | .subVxVy _ _
  | .subnVxVy _ _ | .shrVxVy _ _ | .shlVxVy _ _ | .ldVxDt _ => []

/-! The writers of each part, read off the table. -/

section
variable {i : Instr}

theorem stack_mem_writtenParts : .stack ∈ writtenParts i ↔ i = .ret ∨ ∃ nnn, i = .call nnn := by
  cases i <;> simp [writtenParts]

theorem disp_mem_writtenParts : .disp ∈ writtenParts i ↔ i = .cls ∨ ∃ x y n, i = .drw x y n := by
  cases i <;> simp [writtenParts]

theorem i_mem_writtenParts :
    .i ∈ writtenParts i ↔ (∃ nnn, i = .ldI nnn) ∨ ∃ x, i = .addIVx x ∨ i = .ldFVx x := by
  cases i <;> simp [writtenParts]

theorem dt_mem_writtenParts : .dt ∈ writtenParts i ↔ ∃ x, i = .ldDtVx x := by
  cases i <;> simp [writtenParts]

theorem st_mem_writtenParts : .st ∈ writtenParts i ↔ ∃ x, i = .ldStVx x := by
  cases i <;> simp [writtenParts]

theorem keys_mem_writtenParts : .keys ∈ writtenParts i ↔ ∃ x, i = .skp x ∨ i = .sknp x := by
  cases i <;> simp [writtenParts]

theorem draws_mem_writtenParts : .draws ∈ writtenParts i ↔ ∃ x nn, i = .rnd x nn := by
  cases i <;> simp [writtenParts]

/-- The parameters and what belongs to the environment are written by no instruction. -/
theorem environment_notMem_writtenParts :
    .cfg ∉ writtenParts i ∧ .now ∉ writtenParts i ∧ .agenda ∉ writtenParts i ∧ .reports ∉ writtenParts i := by
  cases i <;> simp [writtenParts]

end

/-! ### What an instruction keeps -/

/-- From `s` to `t` the instruction has kept every part that it may not write, and memory unless it is Fx33 or Fx55. -/
def InFrame (i : Instr) (s t : State) : Prop :=
  KeepsParts (writtenParts i) s t ∧ ((∀ x, i ≠ .ldBVx x ∧ i ≠ .ldMemVx x) → KeepsMem s t)

/-- A halt stays in the frame of an instruction that may halt (spec/60_exceptions.md R243). -/
theorem inFrame_raise {i : Instr} (hi : [.fault, .run] ⊆ writtenParts i) (f : HaltCause) (s : State) :
    InFrame i s (s.raise f) := by
  obtain ⟨-, -, -, hmem, hparts⟩ := haltsWith_raise f s
  exact ⟨hparts.mono hi, fun _ => hmem⟩

/-- An instruction with a range from `I` stays in its frame if its effect does (spec/20_memory.md R68). -/
theorem inFrame_withIndexRange {i : Instr} {s t u : State} {last : Nat} (hi : [.fault, .run] ⊆ writtenParts i)
    (h : withIndexRange s last u = .next t) (hu : InFrame i s u) : InFrame i s t := by
  obtain ⟨-, rfl⟩ | ⟨-, rfl⟩ := withIndexRange_cases h
  · exact inFrame_raise hi _ s
  · exact hu

/-- A draw writes the display and VF (spec/43_display.md R193). -/
theorem inFrame_drawn (x y : Reg) (n : Nibble) (k : Nat) (s : State) : InFrame (.drw x y n) s (drawn x y k s) :=
  ⟨by simp [KeepsParts, writtenParts, drawn], fun _ _ => rfl⟩

/-- Every instruction stays in its frame. -/
theorem exec_inFrame {i : Instr} {s t : State} (h : exec i s = .next t) : InFrame i s t := by
  cases i with
  | ret =>
    obtain ⟨_, _, -, rfl⟩ | ⟨-, rfl⟩ := exec_ret_cases h
    · exact ⟨by simp [KeepsParts, writtenParts], fun _ _ => rfl⟩
    · exact inFrame_raise (by simp [writtenParts]) _ s
  | call nnn =>
    obtain ⟨-, rfl⟩ | ⟨-, rfl⟩ := exec_call_cases h
    · exact ⟨by simp [KeepsParts, writtenParts], fun _ _ => rfl⟩
    · exact inFrame_raise (by simp [writtenParts]) _ s
  | drw x y n =>
    simp only [exec, execDrw] at h
    split at h
    · cases h
      exact inFrame_drawn x y n 0 s
    · exact inFrame_withIndexRange (by simp [writtenParts]) h (inFrame_drawn x y n n.toNat s)
  | ldBVx x | ldMemVx x =>
    exact inFrame_withIndexRange (by simp [writtenParts]) h
      ⟨by simp [KeepsParts], fun hno => absurd (hno x) (by simp)⟩
  | ldVxMem x =>
    exact inFrame_withIndexRange (by simp [writtenParts]) h
      ⟨by simp [KeepsParts], fun _ a => loadRegs_byte _ _ _ a⟩
  | addIVx x =>
    simp only [exec, execAddIVx] at h
    split at h <;> cases h <;> exact ⟨by simp [KeepsParts, writtenParts], fun _ _ => rfl⟩
  | rnd x nn =>
    cases h
    exact ⟨by simp [KeepsParts, writtenParts, rndWith], fun _ _ => rfl⟩
  | seVxNn x nn | sneVxNn x nn | seVxVy x y | sneVxVy x y | skp x | sknp x =>
    cases h
    exact ⟨by simp [KeepsParts, writtenParts], fun _ a => skipIf_byte _ _ a⟩
  | cls | jp nnn | jpV0 nnn | ldI nnn | ldFVx x | ldDtVx x | ldStVx x | ldVxK x | ldVxDt x | ldVxNn x nn | addVxNn x nn
  | ldVxVy x y | orVxVy x y | andVxVy x y | xorVxVy x y | addVxVy x y | subVxVy x y | subnVxVy x y | shrVxVy x y
  | shlVxVy x y =>
    cases h
    exact ⟨by simp [KeepsParts, writtenParts], fun _ _ => rfl⟩

/-- An instruction other than Fx0A leaves `run` alone or halts (spec/10_state.md R45). -/
theorem exec_run_eq_or_halted {i : Instr} {s t : State} (h : exec i s = .next t) (hi : ∀ x, i ≠ .ldVxK x) :
    t.run = s.run ∨ t.run = .halted := by
  obtain ⟨f, rfl, -⟩ | ⟨x, hwait, -⟩ | hdone := exec_endsLegally h
  · exact .inr rfl
  · exact absurd hwait (hi x)
  · exact .inl hdone.run

/-- Settles O53: every instruction stays in its frame, and the table of the written parts names each part's writers. -/
theorem onlyTheNamedInstructionsWriteEachPart : Obligations.OnlyTheNamedInstructionsWriteEachPart := by
  unfold Obligations.OnlyTheNamedInstructionsWriteEachPart
  intro i s t hexec
  obtain ⟨⟨-, hi, hdt, hst, hstack, hdisp, hkeys, -, -, hcfg, hnow, hagenda, hdraws, hreports⟩, hmem⟩ :=
    exec_inFrame hexec
  obtain ⟨hnocfg, hnonow, hnoagenda, hnoreports⟩ := environment_notMem_writtenParts (i := i)
  simp only [i_mem_writtenParts, dt_mem_writtenParts, st_mem_writtenParts, stack_mem_writtenParts,
    disp_mem_writtenParts, keys_mem_writtenParts, draws_mem_writtenParts, not_or, not_exists]
    at hi hdt hst hstack hdisp hkeys hdraws
  exact ⟨hmem, fun hret hcall => hstack ⟨hret, hcall⟩, fun hcls hdrw => hdisp ⟨hcls, hdrw⟩,
    fun hld hadd => hi ⟨hld, hadd⟩, hdt, hst, hkeys, exec_run_eq_or_halted hexec, hdraws,
    hcfg hnocfg, hnow hnonow, hagenda hnoagenda, hreports hnoreports⟩

end Sys2Proof.Machine
end

section
/-!
PROOFS. Encoding (spec/30_encoding.md): the decoder reads back every encoded instruction (R92 to R95); every word is an
instruction's or stands in a group of R97's table, so that the decoder has no other meanings and no other failures; the
rows of the opcode map (R94); and the instruction cycle that runs what was decoded (R90).
-/

namespace Sys2Proof

/-! ### Decoding what was encoded -/

/-- Every operand is read back from its field, and the fixed digits select the branch (spec/30_encoding.md R94). -/
theorem decode_encode (i : Instr) : decode (encode i) = some i := by
  cases i with
  | cls | ret => rfl
  | jp nnn | call nnn | ldI nnn | jpV0 nnn => simp [decode, encode, opField_ofNat, nnnField_ofNat]
  | seVxNn x nn | sneVxNn x nn | ldVxNn x nn | addVxNn x nn | rnd x nn =>
    simp [decode, encode, opField_ofNat, xField_ofNat, nnField_ofNat]
  | seVxVy x y | sneVxVy x y | drw x y n =>
    simp [decode, encode, opField_ofNat, xField_ofNat, yField_ofNat, nField_ofNat]
  | ldVxVy x y | orVxVy x y | andVxVy x y | xorVxVy x y | addVxVy x y | subVxVy x y | subnVxVy x y | shrVxVy x y
  | shlVxVy x y =>
    simp [decode, decodeOp8, encode, opField_ofNat, xField_ofNat, yField_ofNat, nField_ofNat]
  | skp x | sknp x => simp [decode, decodeOpE, encode, opField_ofNat, xField_ofNat, nnField_ofNat]
  | ldVxDt x | ldDtVx x | ldStVx x | addIVx x | ldVxK x | ldFVx x | ldBVx x | ldMemVx x | ldVxMem x =>
    simp [decode, decodeOpF, encode, opField_ofNat, xField_ofNat, nnField_ofNat]

/-- The decoder on two bytes and a rest is the decoder on their word (spec/30_encoding.md R92). -/
theorem decodeBytes_eq_ok_iff {hi lo : Byte} {rest rest' : List Byte} {i : Instr} :
    decodeBytes (hi :: lo :: rest) = .ok (i, rest') ↔ decode (wordOfBytes hi lo) = some i ∧ rest = rest' := by
  cases hdecode : decode (wordOfBytes hi lo) <;> simp [decodeBytes, hdecode]

/-- Settles O2: the word by `decode_encode`, the bytes because they put together are the word. -/
theorem decodeOfEncodeIsIdentity : Obligations.DecodeOfEncodeIsIdentity := by
  unfold Obligations.DecodeOfEncodeIsIdentity
  intro i rest
  have hword : decode (wordOfBytes (highByte (encode i)) (lowByte (encode i))) = some i := by
    rw [wordOfBytes_highByte_lowByte, decode_encode]
  exact ⟨decode_encode i, decodeBytes_eq_ok_iff.2 ⟨hword, rfl⟩⟩

/-! ### A word put together again from its own fields -/

@[simp] theorem xField_putNnn_nnnField (w : Word) : xField ((nnnField w).setWidth 16) = xField w := by
  ext i hi; interval_cases i <;> simp [xField, nnnField]

@[simp] theorem yField_putNnn_nnnField (w : Word) : yField ((nnnField w).setWidth 16) = yField w := by
  ext i hi; interval_cases i <;> simp [yField, nnnField]

@[simp] theorem nField_putNnn_nnnField (w : Word) : nField ((nnnField w).setWidth 16) = nField w := by
  ext i hi; interval_cases i <;> simp [nField, nnnField]

@[simp] theorem yField_putNn_nnField (w : Word) : yField ((nnField w).setWidth 16) = yField w := by
  ext i hi; interval_cases i <;> simp [yField, nnField]

@[simp] theorem nField_putNn_nnField (w : Word) : nField ((nnField w).setWidth 16) = nField w := by
  ext i hi; interval_cases i <;> simp [nField, nnField]

/-- The high nibble of `nn` is `y` (spec/30_encoding.md R93). -/
theorem yField_eq_of_nnField_eq {w w' : Word} (h : nnField w = nnField w') : yField w = yField w' := by
  rw [← yField_putNn_nnField, h, yField_putNn_nnField]

/-- The low nibble of `nn` is `n` (spec/30_encoding.md R93). -/
theorem nField_eq_of_nnField_eq {w w' : Word} (h : nnField w = nnField w') : nField w = nField w' := by
  rw [← nField_putNn_nnField, h, nField_putNn_nnField]

/-! The five forms of R95: `p` holds the fixed digits, which the word shares, and 0 in the place of each operand. -/

section
variable {w p : Word} (hop : opField w = opField p) (hx : xField p = 0#4)
include hop hx

theorem or_nnn_eq (hy : yField p = 0#4) (hn : nField p = 0#4) : p ||| (nnnField w).setWidth 16 = w :=
  word_eq_of_fields (by simp [hop]) (by simp [hx]) (by simp [hy]) (by simp [hn])

theorem or_x_nn_eq (hy : yField p = 0#4) (hn : nField p = 0#4) :
    p ||| putX (xField w) ||| (nnField w).setWidth 16 = w :=
  word_eq_of_fields (by simp [hop]) (by simp [hx]) (by simp [hy]) (by simp [hn])

theorem or_x_y_n_eq (hy : yField p = 0#4) (hn : nField p = 0#4) :
    p ||| putX (xField w) ||| putY (yField w) ||| (nField w).setWidth 16 = w :=
  word_eq_of_fields (by simp [hop]) (by simp [hx]) (by simp [hy]) (by simp [hn])

theorem or_x_y_eq (hn : nField w = nField p) (hy : yField p = 0#4) :
    p ||| putX (xField w) ||| putY (yField w) = w :=
  word_eq_of_fields (by simp [hop]) (by simp [hx]) (by simp [hy]) (by simp [hn])

theorem or_x_eq (hnn : nnField w = nnField p) : p ||| putX (xField w) = w :=
  word_eq_of_fields (by simp [hop]) (by simp [hx]) (by simp [yField_eq_of_nnField_eq hnn])
    (by simp [nField_eq_of_nnField_eq hnn])

end

/-! ### Every word is an instruction's or unassigned -/

/-- The groups of R97's table, by top nibble. -/
def Unassigned (w : Word) : Prop :=
  (opField w = 0x0#4 ∧ w ≠ 0x00E0#16 ∧ w ≠ 0x00EE#16) ∨
  (opField w = 0x5#4 ∧ nField w ≠ 0#4) ∨
  (opField w = 0x8#4 ∧ (nField w).toNat ∈ [0x8, 0x9, 0xA, 0xB, 0xC, 0xD, 0xF]) ∨
  (opField w = 0x9#4 ∧ nField w ≠ 0#4) ∨
  (opField w = 0xE#4 ∧ nnField w ≠ 0x9E#8 ∧ nnField w ≠ 0xA1#8) ∨
  (opField w = 0xF#4 ∧ (nnField w).toNat ∉ [0x07, 0x0A, 0x15, 0x18, 0x1E, 0x29, 0x33, 0x55, 0x65])

theorem nibble_cases (k : Nibble) :
    k = 0x0#4 ∨ k = 0x1#4 ∨ k = 0x2#4 ∨ k = 0x3#4 ∨ k = 0x4#4 ∨ k = 0x5#4 ∨ k = 0x6#4 ∨ k = 0x7#4 ∨
    k = 0x8#4 ∨ k = 0x9#4 ∨ k = 0xA#4 ∨ k = 0xB#4 ∨ k = 0xC#4 ∨ k = 0xD#4 ∨ k = 0xE#4 ∨ k = 0xF#4 := by
  revert k
  decide

section
variable {w : Word}

theorem unassigned_or_encode_of_op0 (hop : opField w = 0x0#4) : Unassigned w ∨ ∃ i, encode i = w := by
  by_cases hcls : w = 0x00E0#16
  · exact .inr ⟨.cls, hcls.symm⟩
  by_cases hret : w = 0x00EE#16
  · exact .inr ⟨.ret, hret.symm⟩
  exact .inl (.inl ⟨hop, hcls, hret⟩)

theorem unassigned_or_encode_of_op8 (hop : opField w = 0x8#4) : Unassigned w ∨ ∃ i, encode i = w := by
  by_cases hfree : (nField w).toNat ∈ [0x8, 0x9, 0xA, 0xB, 0xC, 0xD, 0xF]
  · exact .inl (.inr (.inr (.inl ⟨hop, hfree⟩)))
  have hn : nField w = 0x0#4 ∨ nField w = 0x1#4 ∨ nField w = 0x2#4 ∨ nField w = 0x3#4 ∨ nField w = 0x4#4 ∨
      nField w = 0x5#4 ∨ nField w = 0x6#4 ∨ nField w = 0x7#4 ∨ nField w = 0xE#4 := by
    generalize nField w = n at hfree ⊢
    revert n
    decide
  obtain hn | hn | hn | hn | hn | hn | hn | hn | hn := hn
  · exact .inr ⟨.ldVxVy (xField w) (yField w), or_x_y_eq hop rfl hn rfl⟩
  · exact .inr ⟨.orVxVy (xField w) (yField w), or_x_y_eq hop rfl hn rfl⟩
  · exact .inr ⟨.andVxVy (xField w) (yField w), or_x_y_eq hop rfl hn rfl⟩
  · exact .inr ⟨.xorVxVy (xField w) (yField w), or_x_y_eq hop rfl hn rfl⟩
  · exact .inr ⟨.addVxVy (xField w) (yField w), or_x_y_eq hop rfl hn rfl⟩
  · exact .inr ⟨.subVxVy (xField w) (yField w), or_x_y_eq hop rfl hn rfl⟩
  · exact .inr ⟨.shrVxVy (xField w) (yField w), or_x_y_eq hop rfl hn rfl⟩
  · exact .inr ⟨.subnVxVy (xField w) (yField w), or_x_y_eq hop rfl hn rfl⟩
  · exact .inr ⟨.shlVxVy (xField w) (yField w), or_x_y_eq hop rfl hn rfl⟩

theorem unassigned_or_encode_of_opE (hop : opField w = 0xE#4) : Unassigned w ∨ ∃ i, encode i = w := by
  by_cases hskp : nnField w = 0x9E#8
  · exact .inr ⟨.skp (xField w), or_x_eq hop rfl hskp⟩
  by_cases hsknp : nnField w = 0xA1#8
  · exact .inr ⟨.sknp (xField w), or_x_eq hop rfl hsknp⟩
  exact .inl (.inr (.inr (.inr (.inr (.inl ⟨hop, hskp, hsknp⟩)))))

theorem unassigned_or_encode_of_opF (hop : opField w = 0xF#4) : Unassigned w ∨ ∃ i, encode i = w := by
  by_cases hnn : (nnField w).toNat ∈ [0x07, 0x0A, 0x15, 0x18, 0x1E, 0x29, 0x33, 0x55, 0x65]
  · simp only [List.mem_cons, List.not_mem_nil, or_false] at hnn
    obtain hnn | hnn | hnn | hnn | hnn | hnn | hnn | hnn | hnn := hnn
    · exact .inr ⟨.ldVxDt (xField w), or_x_eq hop rfl (BitVec.eq_of_toNat_eq hnn)⟩
    · exact .inr ⟨.ldVxK (xField w), or_x_eq hop rfl (BitVec.eq_of_toNat_eq hnn)⟩
    · exact .inr ⟨.ldDtVx (xField w), or_x_eq hop rfl (BitVec.eq_of_toNat_eq hnn)⟩
    · exact .inr ⟨.ldStVx (xField w), or_x_eq hop rfl (BitVec.eq_of_toNat_eq hnn)⟩
    · exact .inr ⟨.addIVx (xField w), or_x_eq hop rfl (BitVec.eq_of_toNat_eq hnn)⟩
    · exact .inr ⟨.ldFVx (xField w), or_x_eq hop rfl (BitVec.eq_of_toNat_eq hnn)⟩
    · exact .inr ⟨.ldBVx (xField w), or_x_eq hop rfl (BitVec.eq_of_toNat_eq hnn)⟩
    · exact .inr ⟨.ldMemVx (xField w), or_x_eq hop rfl (BitVec.eq_of_toNat_eq hnn)⟩
    · exact .inr ⟨.ldVxMem (xField w), or_x_eq hop rfl (BitVec.eq_of_toNat_eq hnn)⟩
  · exact .inl (.inr (.inr (.inr (.inr (.inr ⟨hop, hnn⟩)))))

end

/-- One case per top nibble (spec/30_encoding.md R95, R97). -/
theorem unassigned_or_encode (w : Word) : Unassigned w ∨ ∃ i, encode i = w := by
  obtain hop | hop | hop | hop | hop | hop | hop | hop | hop | hop | hop | hop | hop | hop | hop | hop :=
    nibble_cases (opField w)
  · exact unassigned_or_encode_of_op0 hop
  · exact .inr ⟨.jp (nnnField w), or_nnn_eq hop rfl rfl rfl⟩
  · exact .inr ⟨.call (nnnField w), or_nnn_eq hop rfl rfl rfl⟩
  · exact .inr ⟨.seVxNn (xField w) (nnField w), or_x_nn_eq hop rfl rfl rfl⟩
  · exact .inr ⟨.sneVxNn (xField w) (nnField w), or_x_nn_eq hop rfl rfl rfl⟩
  · by_cases hn : nField w = 0#4
    · exact .inr ⟨.seVxVy (xField w) (yField w), or_x_y_eq hop rfl hn rfl⟩
    · exact .inl (.inr (.inl ⟨hop, hn⟩))
  · exact .inr ⟨.ldVxNn (xField w) (nnField w), or_x_nn_eq hop rfl rfl rfl⟩
  · exact .inr ⟨.addVxNn (xField w) (nnField w), or_x_nn_eq hop rfl rfl rfl⟩
  · exact unassigned_or_encode_of_op8 hop
  · by_cases hn : nField w = 0#4
    · exact .inr ⟨.sneVxVy (xField w) (yField w), or_x_y_eq hop rfl hn rfl⟩
    · exact .inl (.inr (.inr (.inr (.inl ⟨hop, hn⟩))))
  · exact .inr ⟨.ldI (nnnField w), or_nnn_eq hop rfl rfl rfl⟩
  · exact .inr ⟨.jpV0 (nnnField w), or_nnn_eq hop rfl rfl rfl⟩
  · exact .inr ⟨.rnd (xField w) (nnField w), or_x_nn_eq hop rfl rfl rfl⟩
  · exact .inr ⟨.drw (xField w) (yField w) (nField w), or_x_y_n_eq hop rfl rfl rfl⟩
  · exact unassigned_or_encode_of_opE hop
  · exact unassigned_or_encode_of_opF hop

/-! ### The decoder's meanings and failures -/

/-- 8xyN fails for each `n` of R97's list (spec/41_alu.md R155). -/
theorem decodeOp8_eq_none (x y : Reg) {n : Nibble} (hn : n.toNat ∈ [0x8, 0x9, 0xA, 0xB, 0xC, 0xD, 0xF]) :
    decodeOp8 x y n = none := by
  have hne : n ≠ 0x0#4 ∧ n ≠ 0x1#4 ∧ n ≠ 0x2#4 ∧ n ≠ 0x3#4 ∧ n ≠ 0x4#4 ∧ n ≠ 0x5#4 ∧ n ≠ 0x7#4 ∧ n ≠ 0x6#4 ∧
      n ≠ 0xE#4 := by
    revert n
    decide
  simp [decodeOp8, hne]

/-- Fxnn fails for each `nn` outside R97's list (spec/44_keys_timers.md R218). -/
theorem decodeOpF_eq_none (x : Reg) {nn : Byte}
    (hnn : nn.toNat ∉ [0x07, 0x0A, 0x15, 0x18, 0x1E, 0x29, 0x33, 0x55, 0x65]) : decodeOpF x nn = none := by
  have hne : ∀ k : Byte, k.toNat ∈ [0x07, 0x0A, 0x15, 0x18, 0x1E, 0x29, 0x33, 0x55, 0x65] → nn ≠ k :=
    fun k hk h => hnn (h ▸ hk)
  simp [decodeOpF, hne]

theorem decode_eq_none_of_unassigned {w : Word} (h : Unassigned w) : decode w = none := by
  obtain ⟨hop, hcls, hret⟩ | ⟨hop, hn⟩ | ⟨hop, hn⟩ | ⟨hop, hn⟩ | ⟨hop, hskp, hsknp⟩ | ⟨hop, hnn⟩ := h
  · simp [decode, hop, decodeOp0, hcls, hret]
  · simp [decode, hop, hn]
  · simp [decode, hop, decodeOp8_eq_none _ _ hn]
  · simp [decode, hop, hn]
  · simp [decode, hop, decodeOpE, hskp, hsknp]
  · simp [decode, hop, decodeOpF_eq_none _ hnn]

/-- Settles O3: a word that decodes is not unassigned, so it is some instruction's word, and that one is read back. -/
theorem encodeOfDecodeIsIdentity : Obligations.EncodeOfDecodeIsIdentity := by
  unfold Obligations.EncodeOfDecodeIsIdentity
  intro w i hdecode
  obtain hfree | ⟨j, rfl⟩ := unassigned_or_encode w
  · rw [decode_eq_none_of_unassigned hfree] at hdecode
    cases hdecode
  · rw [decode_encode] at hdecode
    cases hdecode
    rfl

theorem decode_eq_none_iff_unassigned (w : Word) : decode w = none ↔ Unassigned w := by
  refine ⟨fun hnone => ?_, decode_eq_none_of_unassigned⟩
  obtain hfree | ⟨i, rfl⟩ := unassigned_or_encode w
  · exact hfree
  · rw [decode_encode] at hnone
    cases hnone

/-- Settles O5: a word outside the groups is an instruction's, which the decoder reads back. -/
theorem decodeFailsExactlyOnTheUnassignedGroups : Obligations.DecodeFailsExactlyOnTheUnassignedGroups := by
  unfold Obligations.DecodeFailsExactlyOnTheUnassignedGroups
  exact decode_eq_none_iff_unassigned

/-! ### Fields of a conjunction -/

@[simp] theorem opField_and (a b : Word) : opField (a &&& b) = opField a &&& opField b := by
  simp [opField, BitVec.extractLsb'_and]

@[simp] theorem nField_and (a b : Word) : nField (a &&& b) = nField a &&& nField b := by
  simp [nField, BitVec.extractLsb'_and]

@[simp] theorem nnField_and (a b : Word) : nnField (a &&& b) = nnField a &&& nnField b := by
  simp [nnField, BitVec.extractLsb'_and]

/-! ### The rows of the opcode map -/

/-- Any two rows differ in a digit that both fix (spec/30_encoding.md R94). -/
theorem opcodeMap_pairwise_disjoint :
    opcodeMap.Pairwise fun r r' => r.pat &&& r'.mask ≠ r'.pat &&& r.mask := by
  decide

/-- Two rows that select one word agree in the digits that both fix. -/
theorem OpcodeRow.agree_of_selects {r r' : OpcodeRow} {w : Word} (h : r.selects w = true) (h' : r'.selects w = true) :
    r.pat &&& r'.mask = r'.pat &&& r.mask := by
  rw [← eq_of_beq h, ← eq_of_beq h', BitVec.and_assoc, BitVec.and_assoc, BitVec.and_comm r.mask]

theorem selectedRows_length_le_one (w : Word) : (opcodeMap.filter fun r => r.selects w).length ≤ 1 := by
  have hdisjoint := opcodeMap_pairwise_disjoint.filter fun r => r.selects w
  have hselects : ∀ r ∈ opcodeMap.filter fun r => r.selects w, r.selects w = true :=
    fun r hr => (List.mem_filter.1 hr).2
  generalize (opcodeMap.filter fun r => r.selects w) = rows at hdisjoint hselects ⊢
  match rows with
  | [] => exact Nat.zero_le 1
  | [_] => exact Nat.le_refl 1
  | r :: r' :: _ =>
    have hagree := OpcodeRow.agree_of_selects (hselects r (by simp)) (hselects r' (by simp))
    exact absurd hagree (List.rel_of_pairwise_cons hdisjoint (by simp))

/-- Every instruction's word carries the fixed digits of the instruction's own row (spec/30_encoding.md R95). -/
theorem encodedRow (i : Instr) : Laws.EncodedRow.Statement i := by
  open Laws.EncodedRow in
  cases i with
  | cls => exact cls
  | ret => exact ret
  | jp nnn => exact jp nnn
  | call nnn => exact call nnn
  | seVxNn x nn => exact seVxNn x nn
  | sneVxNn x nn => exact sneVxNn x nn
  | seVxVy x y => exact seVxVy x y
  | ldVxNn x nn => exact ldVxNn x nn
  | addVxNn x nn => exact addVxNn x nn
  | ldVxVy x y => exact ldVxVy x y
  | orVxVy x y => exact orVxVy x y
  | andVxVy x y => exact andVxVy x y
  | xorVxVy x y => exact xorVxVy x y
  | addVxVy x y => exact addVxVy x y
  | subVxVy x y => exact subVxVy x y
  | subnVxVy x y => exact subnVxVy x y
  | shrVxVy x y => exact shrVxVy x y
  | shlVxVy x y => exact shlVxVy x y
  | sneVxVy x y => exact sneVxVy x y
  | ldI nnn => exact ldI nnn
  | jpV0 nnn => exact jpV0 nnn
  | rnd x nn => exact rnd x nn
  | drw x y n => exact drw x y n
  | skp x => exact skp x
  | sknp x => exact sknp x
  | ldVxDt x => exact ldVxDt x
  | ldDtVx x => exact ldDtVx x
  | ldStVx x => exact ldStVx x
  | addIVx x => exact addIVx x
  | ldVxK x => exact ldVxK x
  | ldFVx x => exact ldFVx x
  | ldBVx x => exact ldBVx x
  | ldMemVx x => exact ldMemVx x
  | ldVxMem x => exact ldVxMem x

/-- A word that decodes matches the row of the instruction it decodes to. -/
theorem exists_row_of_decode {w : Word} {i : Instr} (h : decode w = some i) :
    ∃ r ∈ opcodeMap, w &&& r.mask = r.pat ∧ r.mnemonic = mnemonicOf i := by
  obtain ⟨r, hr, hname, hmatch⟩ := encodedRow i
  rw [encodeOfDecodeIsIdentity w i h] at hmatch
  exact ⟨r, hr, hmatch, hname⟩

/-- Every row fixes the field that the decoder dispatches on first and the one, if any, that it dispatches on second for
the row's top nibble (spec/30_encoding.md R94). -/
theorem opcodeMap_masks : ∀ r ∈ opcodeMap,
    opField r.mask = 0xF#4 ∧ (opField r.pat = 0x0#4 → r.mask = 0xFFFF#16) ∧
    (opField r.pat = 0x5#4 ∨ opField r.pat = 0x8#4 ∨ opField r.pat = 0x9#4 → nField r.mask = 0xF#4) ∧
    (opField r.pat = 0xE#4 ∨ opField r.pat = 0xF#4 → nnField r.mask = 0xFF#8) := by
  decide

theorem opcodeMap_pat_decodes : ∀ r ∈ opcodeMap, decode r.pat ≠ none := by
  decide

/-- A word that matches a row stands in a group of R97's table only if the row's pattern does: the groups are told apart
by fields that the row fixes. -/
theorem unassigned_pat_of_match {r : OpcodeRow} (hr : r ∈ opcodeMap) {w : Word} (hmatch : w &&& r.mask = r.pat)
    (h : Unassigned w) : Unassigned r.pat := by
  obtain ⟨hmaskOp, hmask, hmaskN, hmaskNn⟩ := opcodeMap_masks r hr
  have hallN : ∀ a : Nibble, a &&& 0xF#4 = a := fun _ => BitVec.and_allOnes
  have hop : opField r.pat = opField w := by rw [← hmatch, opField_and, hmaskOp, hallN]
  have hn : nField r.mask = 0xF#4 → nField r.pat = nField w := fun hm => by rw [← hmatch, nField_and, hm, hallN]
  have hnn : nnField r.mask = 0xFF#8 → nnField r.pat = nnField w := fun hm => by
    rw [← hmatch, nnField_and, hm]
    exact BitVec.and_allOnes
  rw [hop] at hmask hmaskN hmaskNn
  unfold Unassigned
  rw [hop]
  obtain ⟨h0, hw⟩ | ⟨h5, hne⟩ | ⟨h8, hmem⟩ | ⟨h9, hne⟩ | ⟨hE, hne⟩ | ⟨hF, hnot⟩ := h
  · have hpat : r.pat = w := by
      rw [← hmatch, hmask h0]
      exact BitVec.and_allOnes
    exact .inl ⟨h0, by rwa [hpat]⟩
  · exact .inr (.inl ⟨h5, by rwa [hn (hmaskN (.inl h5))]⟩)
  · exact .inr (.inr (.inl ⟨h8, by rwa [hn (hmaskN (.inr (.inl h8)))]⟩))
  · exact .inr (.inr (.inr (.inl ⟨h9, by rwa [hn (hmaskN (.inr (.inr h9)))]⟩)))
  · exact .inr (.inr (.inr (.inr (.inl ⟨hE, by rwa [hnn (hmaskNn (.inl hE))]⟩))))
  · exact .inr (.inr (.inr (.inr (.inr ⟨hF, by rwa [hnn (hmaskNn (.inr hF))]⟩))))

/-- A word that matches a row decodes, since the row's pattern does. -/
theorem decode_ne_none_of_match {r : OpcodeRow} (hr : r ∈ opcodeMap) {w : Word} (hmatch : w &&& r.mask = r.pat) :
    decode w ≠ none := fun hnone =>
  have hfree : Unassigned r.pat := unassigned_pat_of_match hr hmatch ((decode_eq_none_iff_unassigned w).1 hnone)
  opcodeMap_pat_decodes r hr (decode_eq_none_of_unassigned hfree)

/-- Settles O4: the rows are disjoint, a decoded word matches its instruction's row, and a word of a row decodes. -/
theorem decodeSelectsTheMatchingRow : Obligations.DecodeSelectsTheMatchingRow := by
  unfold Obligations.DecodeSelectsTheMatchingRow
  intro w
  refine ⟨selectedRows_length_le_one w, fun _ => exists_row_of_decode, fun hnone r hr hmatch => ?_, fun hrows => ?_⟩
  · exact decode_ne_none_of_match hr hmatch hnone
  · refine Option.eq_none_iff_forall_ne_some.2 fun i hdecode => ?_
    obtain ⟨r, hr, hmatch, -⟩ := exists_row_of_decode hdecode
    exact hrows r hr hmatch

/-! ### Words written out from the table -/

/-- Settles O1: the decoder runs on each of the twelve words. -/
theorem wordsFromTheTableDecode : Obligations.WordsFromTheTableDecode := by
  unfold Obligations.WordsFromTheTableDecode
  decide

end Sys2Proof

namespace Sys2Proof.Machine

/-! ### The instruction cycle -/

/-- The CPU's turn in RUNNING with a fetched word runs that word (spec/30_encoding.md R90). -/
theorem step_of_fetchWord_ok {s : State} {w : Word} (hturn : s.turn = .cpu) (hrun : s.run = .running)
    (hfetch : fetchWord s = .ok w) : step s = runWord w s.popTurn := by
  have hrun' : s.popTurn.run = .running := hrun
  have hfetch' : fetchWord s.popTurn = .ok w := hfetch
  simp only [step_eq, hturn, agentStep, cpuStep, hrun', hfetch']

/-- A word that decodes is executed with `pc` past it (spec/30_encoding.md R90). -/
theorem runWord_of_decode {w : Word} {i : Instr} (h : decode w = some i) (s : State) :
    runWord w s = exec i s.advance := by
  simp only [runWord, h]

/-- Settles O12: the fetched word is the word of the two bytes at `pc`, and `runWord` executes what it decodes to. -/
theorem stepRunsTheDecodedInstruction : Obligations.StepRunsTheDecodedInstruction := by
  unfold Obligations.StepRunsTheDecodedInstruction
  intro s i hturn hrun hfetch hbytes
  obtain ⟨hdecode, -⟩ := decodeBytes_eq_ok_iff.1 hbytes
  rw [step_of_fetchWord_ok hturn hrun (fetchWord_ok hfetch), runWord_of_decode hdecode]
  rfl

end Sys2Proof.Machine
end

section
/-!
PROOFS. Control flow (spec/40_control_flow.md): the jumps (R121, R124), the call and the return with their violations
(R122, R123), and the four skips (R125 to R128), which share one account of `skipIf` (R120).
-/

namespace Sys2Proof.Machine

/-! ### The targets of the jumps -/

/-- `nnn` loses nothing in 16 bits (spec/30_encoding.md R96). -/
@[simp] theorem absAddr_toNat (nnn : Addr12) : (absAddr nnn).toNat = nnn.toNat :=
  BitVec.toNat_setWidth_of_le (by decide)

/-- A byte loses nothing in 16 bits (spec/00_scope.md R16). -/
@[simp] theorem zextByte_toNat (b : Byte) : (zextByte b).toNat = b.toNat :=
  BitVec.toNat_setWidth_of_le (by decide)

/-- A 12-bit address and a byte have a 16-bit sum (spec/40_control_flow.md R124). -/
theorem absAddr_add_zextByte_toNat (nnn : Addr12) (b : Byte) :
    (absAddr nnn + zextByte b).toNat = nnn.toNat + b.toNat := by
  have hsum : (absAddr nnn).toNat + (zextByte b).toNat < 2 ^ 16 := by
    rw [absAddr_toNat, zextByte_toNat]
    omega
  rw [BitVec.toNat_add_of_lt hsum, absAddr_toNat, zextByte_toNat]

/-! ### The frames of control transfer -/

/-- A jump writes `pc` only (spec/40_control_flow.md R121). -/
theorem onlyParts_setPc (s : State) (a : Word) : OnlyParts [.pc] s (s.setPc a) := by
  refine ⟨?_, fun _ _ => rfl, fun _ => rfl⟩
  simp [KeepsParts]

/-- A call and a return write `pc` and the stack (spec/40_control_flow.md R122, R123). -/
theorem onlyParts_setStack_setPc (s : State) (st : List Word) (a : Word) :
    OnlyParts [.pc, .stack] s ((s.setStack st).setPc a) := by
  refine ⟨?_, fun _ _ => rfl, fun _ => rfl⟩
  simp [KeepsParts]

/-- A skip, taken or not, writes `pc` only (spec/40_control_flow.md R120). -/
theorem onlyParts_skipIf (s : State) (c : Bool) : OnlyParts [.pc] s (s.skipIf c) := by
  refine ⟨?_, fun r _ => skipIf_reg s c r, skipIf_byte s c⟩
  simp [KeepsParts]

/-! ### The jumps -/

/-- Settles O21: the 12-bit target is `pc` as it is. -/
theorem jumpSetsPc : Obligations.JumpSetsPc := by
  unfold Obligations.JumpSetsPc
  exact fun nnn s => ⟨decode_encode (.jp nnn), _, rfl, absAddr_toNat nnn, onlyParts_setPc s _⟩

/-- Settles O25: the sum of the 12-bit address and V0 fits 16 bits, so nothing wraps. -/
theorem jumpWithOffsetAddsV0 : Obligations.JumpWithOffsetAddsV0 := by
  unfold Obligations.JumpWithOffsetAddsV0
  exact fun nnn s => ⟨decode_encode (.jpV0 nnn), _, rfl, absAddr_add_zextByte_toNat nnn _, onlyParts_setPc s _⟩

/-! ### The call and the return -/

/-- 2nnn with a full stack (spec/40_control_flow.md R122). -/
theorem exec_call_of_full {s : State} (nnn : Addr12) (h : s.cfg.stackCap ≤ s.stack.length) :
    exec (.call nnn) s = .next (s.raise .stackOverflow) := by
  simp only [exec, execCall, stackPush_full h]

/-- 00EE with an empty stack (spec/40_control_flow.md R123). -/
theorem exec_ret_of_empty {s : State} (h : s.stack = []) : exec .ret s = .next (s.raise .stackUnderflow) := by
  simp only [exec, execRet, h, stackPop_empty]

/-- Settles O22: with room the push and the jump, with a full stack the halt. -/
theorem callPushesAndJumpsOrOverflows : Obligations.CallPushesAndJumpsOrOverflows := by
  unfold Obligations.CallPushesAndJumpsOrOverflows
  refine fun nnn s => ⟨decode_encode (.call nnn), fun hroom => ?_, fun hfull => ?_⟩
  · exact ⟨_, exec_call_of_room nnn hroom, rfl, absAddr_toNat nnn, onlyParts_setStack_setPc s _ _⟩
  · exact ⟨_, exec_call_of_full nnn hfull, haltsWith_raise .stackOverflow s⟩

/-- Settles O23: with an address on the stack the pop into `pc`, with an empty stack the halt. -/
theorem returnPopsOrUnderflows : Obligations.ReturnPopsOrUnderflows := by
  unfold Obligations.ReturnPopsOrUnderflows
  refine fun s => ⟨decode_encode .ret, fun below a hstack => ?_, fun hempty => ?_⟩
  · exact ⟨_, exec_ret_of_append hstack, rfl, rfl, onlyParts_setStack_setPc s below a⟩
  · exact ⟨_, exec_ret_of_empty hempty, haltsWith_raise .stackUnderflow s⟩

/-! ### The skips -/

/-- An instruction that is a skip on the test `c`: where `p` makes the test true it adds 2 to `pc`, where `q` makes it
false it leaves `pc`, and nothing else changes (spec/40_control_flow.md R120). -/
theorem exec_of_skipIf {i : Instr} {s : State} {c : Bool} {p q : Prop} (hexec : exec i s = .next (s.skipIf c))
    (hskip : p → c = true) (hstay : q → c = false) :
    ∃ t, exec i s = .next t ∧ OnlyParts [.pc] s t ∧ (p → t.pc = s.pc + 2#16) ∧ (q → t.pc = s.pc) := by
  refine ⟨_, hexec, onlyParts_skipIf s c, fun hp => ?_, fun hq => ?_⟩
  · rw [skipIf_pc, if_pos (hskip hp)]
  · rw [skipIf_pc, hstay hq, if_neg Bool.false_ne_true]

/-- Settles O26: SE is a skip on `==` and SNE one on `!=`. -/
theorem immediateSkips : Obligations.ImmediateSkips := by
  unfold Obligations.ImmediateSkips
  refine fun x nn s => ⟨decode_encode (.seVxNn x nn), decode_encode (.sneVxNn x nn), ?_, ?_⟩
  · exact exec_of_skipIf rfl beq_iff_eq.2 beq_eq_false_iff_ne.2
  · exact exec_of_skipIf rfl bne_iff_ne.2 bne_eq_false_iff_eq.2

/-- Settles O27: the same two tests, on two registers. -/
theorem registerSkips : Obligations.RegisterSkips := by
  unfold Obligations.RegisterSkips
  refine fun x y s => ⟨decode_encode (.seVxVy x y), decode_encode (.sneVxVy x y), ?_, ?_⟩
  · exact exec_of_skipIf rfl beq_iff_eq.2 beq_eq_false_iff_ne.2
  · exact exec_of_skipIf rfl bne_iff_ne.2 bne_eq_false_iff_eq.2

end Sys2Proof.Machine
end

section
/-!
PROOFS. Register loads and the ALU (spec/41_alu.md): the immediate forms (R140, R141), the move and the logical
operations (R143 to R146), the additions, subtractions and shifts with their flag (R147 to R151), who writes VF (R154),
and the masked draw (R152). All but the draw end in `setReg` or in `writeWithFlag`, whose frames are proved once; what
is left of each instruction is the arithmetic of its result and of its flag.
-/

namespace Sys2Proof.Machine

/-! ### The frames of a register write -/

/-- A write to `V[x]` keeps the other registers (spec/10_state.md R22). -/
theorem keepsRegs_setReg (s : State) (x : Reg) (b : Byte) : KeepsRegs [x] s (s.setReg x b) :=
  fun _ hr => setReg_reg_ne s b (List.ne_of_not_mem_cons hr)

/-- A written register is the only change (spec/10_state.md R22). -/
theorem onlyRegs_setReg (s : State) (x : Reg) (b : Byte) : OnlyRegs [x] s (s.setReg x b) := by
  refine ⟨?_, keepsRegs_setReg s x b, setReg_byte s x b⟩
  simp [KeepsParts]

/-- An instruction with a flag writes its destination and VF only (spec/41_alu.md R153). -/
theorem onlyRegs_writeWithFlag (s : State) (x : Reg) (b : Byte) (f : Bool) :
    OnlyRegs [x, vF] s (s.writeWithFlag x b f) := by
  refine ⟨?_, fun r hr => ?_, writeWithFlag_byte s x b f⟩
  · simp [KeepsParts]
  · obtain ⟨hx, hvF⟩ : r ≠ x ∧ r ≠ vF := by simpa using hr
    rw [writeWithFlag_reg, if_neg hvF, if_neg hx]

/-- The flag overwrites the result only where VF is the destination (spec/41_alu.md R153). -/
theorem writeWithFlag_reg_same (s : State) {x : Reg} (b : Byte) (f : Bool) (h : x ≠ vF) :
    (s.writeWithFlag x b f).reg x = b := by
  rw [writeWithFlag_reg, if_neg h, if_pos rfl]

/-- VF holds the flag whatever the destination is (spec/41_alu.md R153, R154). -/
@[simp] theorem writeWithFlag_reg_vF (s : State) (x : Reg) (b : Byte) (f : Bool) :
    (s.writeWithFlag x b f).reg vF = flagByte f := by
  rw [writeWithFlag_reg, if_pos rfl]

/-! ### Flags as numbers -/

theorem flagByte_eq_zero_or_one (f : Bool) : flagByte f = 0 ∨ flagByte f = 1 := by
  cases f with
  | false => exact .inl rfl
  | true => exact .inr rfl

/-- The flag of a test is 1 where the test holds (spec/10_state.md R24). -/
theorem flagByte_decide_toNat (p : Prop) [Decidable p] : (flagByte (decide p)).toNat = if p then 1 else 0 := by
  by_cases h : p <;> simp [flagByte, h]

/-- The flag of a bit is the binary digit that the bit stands for (spec/41_alu.md R149, R151). -/
theorem flagByte_getLsbD_toNat (a : Byte) (k : Nat) : (flagByte (a.getLsbD k)).toNat = a.toNat / 2 ^ k % 2 := by
  rw [← BitVec.testBit_toNat, Nat.testBit_eq_decide_div_mod_eq, flagByte_decide_toNat]
  split <;> omega

/-- The bit a left shift drops is the top binary digit (spec/41_alu.md R151). -/
theorem flagByte_shiftedOutLeft_toNat (a : Byte) : (flagByte (shiftedOutLeft a)).toNat = a.toNat / 128 := by
  have hdigit : (flagByte (shiftedOutLeft a)).toNat = a.toNat / 128 % 2 := flagByte_getLsbD_toNat a 7
  omega

/-- The bit a right shift drops is the lowest binary digit (spec/41_alu.md R149). -/
theorem flagByte_shiftedOutRight_toNat (a : Byte) : (flagByte (shiftedOutRight a)).toNat = a.toNat % 2 := by
  have hdigit : (flagByte (shiftedOutRight a)).toNat = a.toNat / 1 % 2 := flagByte_getLsbD_toNat a 0
  rw [hdigit, Nat.div_one]

/-! ### Results as numbers -/

/-- The difference of two bytes is the integers' modulo 256 (spec/41_alu.md R148, R150). -/
theorem byte_sub_toNat (a b : Byte) : ((a - b).toNat : Int) = (a.toNat - b.toNat : Int) % 256 := by
  rw [BitVec.toNat_sub]
  omega

/-- Shifting right by one bit halves (spec/41_alu.md R149). -/
theorem byte_shiftRight_one_toNat (a : Byte) : (a >>> 1).toNat = a.toNat / 2 := by
  rw [BitVec.toNat_ushiftRight, Nat.shiftRight_one]

/-- Shifting left by one bit doubles modulo 256 (spec/41_alu.md R151). -/
theorem byte_shiftLeft_one_toNat (a : Byte) : (a <<< 1).toNat = a.toNat * 2 % 256 := by
  rw [BitVec.toNat_shiftLeft, Nat.shiftLeft_eq]

/-! ### The instructions without a flag -/

/-- Settles O28: both forms write one register, and byte addition is addition modulo 256. -/
theorem immediateLoadAndAdd : Obligations.ImmediateLoadAndAdd := by
  unfold Obligations.ImmediateLoadAndAdd
  refine fun x nn s => ⟨decode_encode (.ldVxNn x nn), decode_encode (.addVxNn x nn), ?_, ?_⟩
  · exact ⟨_, rfl, setReg_reg_same s x nn, onlyRegs_setReg s x nn⟩
  · refine ⟨_, rfl, ?_, onlyRegs_setReg s x _⟩
    rw [setReg_reg_same, BitVec.toNat_add]

/-- Settles O29: all four write one register, and the byte operations work bit by bit. -/
theorem moveAndLogic : Obligations.MoveAndLogic := by
  unfold Obligations.MoveAndLogic
  refine fun x y s => ⟨decode_encode (.ldVxVy x y), decode_encode (.orVxVy x y), decode_encode (.andVxVy x y),
    decode_encode (.xorVxVy x y), ⟨_, rfl, onlyRegs_setReg s x _, setReg_reg_same s x _⟩,
    ⟨_, rfl, onlyRegs_setReg s x _, fun k _ => ?_⟩, ⟨_, rfl, onlyRegs_setReg s x _, fun k _ => ?_⟩,
    ⟨_, rfl, onlyRegs_setReg s x _, fun k _ => ?_⟩⟩
  · rw [setReg_reg_same, BitVec.getLsbD_or]
  · rw [setReg_reg_same, BitVec.getLsbD_and]
  · rw [setReg_reg_same, BitVec.getLsbD_xor]

/-! ### The instructions with a flag -/

/-- An instruction that writes a result and a flag: its destination, unless it is VF, has what is true of the result,
and VF is the flag's number, with nothing else changed (spec/41_alu.md R153). -/
theorem exec_of_writeWithFlag {i : Instr} {s : State} {x : Reg} {b : Byte} {f : Bool} (result : Byte → Prop)
    {flag : Nat} (hexec : exec i s = .next (s.writeWithFlag x b f)) (hresult : result b)
    (hflag : (flagByte f).toNat = flag) :
    ∃ t, exec i s = .next t ∧ OnlyRegs [x, vF] s t ∧ (x ≠ vF → result (t.reg x)) ∧ (t.reg vF).toNat = flag := by
  refine ⟨_, hexec, onlyRegs_writeWithFlag s x b f, fun hx => ?_, ?_⟩
  · rwa [writeWithFlag_reg_same s b f hx]
  · rwa [writeWithFlag_reg_vF]

/-- Settles O30: the sum modulo 256, and the carry as the flag of the test on the whole sum. -/
theorem addSetsSumAndCarry : Obligations.AddSetsSumAndCarry := by
  unfold Obligations.AddSetsSumAndCarry
  refine fun x y s => ⟨decode_encode (.addVxVy x y), ?_⟩
  exact exec_of_writeWithFlag (fun b => b.toNat = _) rfl (BitVec.toNat_add _ _) (flagByte_decide_toNat _)

/-- Settles O31: the integers' difference modulo 256, and NOT borrow as the flag of the comparison; the two instructions
exchange the operands. -/
theorem subtractionsSetDifferenceAndNotBorrow : Obligations.SubtractionsSetDifferenceAndNotBorrow := by
  unfold Obligations.SubtractionsSetDifferenceAndNotBorrow
  refine fun x y s => ⟨decode_encode (.subVxVy x y), decode_encode (.subnVxVy x y), ?_, ?_⟩
  · exact exec_of_writeWithFlag (fun b => (b.toNat : Int) = _) rfl (byte_sub_toNat _ _) (flagByte_decide_toNat _)
  · exact exec_of_writeWithFlag (fun b => (b.toNat : Int) = _) rfl (byte_sub_toNat _ _) (flagByte_decide_toNat _)

/-- Settles O32: half or double the second operand, and the binary digit that this drops. -/
theorem shiftsSetResultAndBitOut : Obligations.ShiftsSetResultAndBitOut := by
  unfold Obligations.ShiftsSetResultAndBitOut
  refine fun x y s => ⟨decode_encode (.shrVxVy x y), decode_encode (.shlVxVy x y), ?_, ?_⟩
  · exact exec_of_writeWithFlag (fun b => b.toNat = _) rfl (byte_shiftRight_one_toNat _)
      (flagByte_shiftedOutRight_toNat _)
  · exact exec_of_writeWithFlag (fun b => b.toNat = _) rfl (byte_shiftLeft_one_toNat _)
      (flagByte_shiftedOutLeft_toNat _)

/-! ### Who writes VF -/

/-- Settles O33: the five instructions with a flag end in `writeWithFlag`, the seven others in a write of `V[x]`. -/
theorem aluFlagWrites : Obligations.AluFlagWrites := by
  unfold Obligations.AluFlagWrites
  intro i x y nn s t hexec
  simp only [List.mem_cons, List.not_mem_nil, or_false]
  constructor
  · rintro (rfl | rfl | rfl | rfl | rfl) <;> cases hexec
    all_goals
      rw [writeWithFlag_reg_vF]
      exact flagByte_eq_zero_or_one _
  · rintro (rfl | rfl | rfl | rfl | rfl | rfl | rfl) hx <;> cases hexec
    all_goals exact setReg_reg_ne s _ hx.symm

/-! ### The draw -/

/-- Cxnn masks the drawn byte (spec/41_alu.md R152). -/
@[simp] theorem rndWith_reg_same (r : Byte) (x : Reg) (nn : Byte) (s : State) : (rndWith r x nn s).reg x = r &&& nn :=
  setReg_reg_same s x (r &&& nn)

/-- A masked byte has no bit outside the mask (spec/41_alu.md R152). -/
theorem and_and_not_mask (r nn : Byte) : r &&& nn &&& ~~~nn = 0 := by
  rw [BitVec.and_assoc, BitVec.and_not_self]
  exact BitVec.and_zero

/-- A byte without a bit outside the mask is its own masked value (spec/41_alu.md R152). -/
theorem and_mask_eq_self {v nn : Byte} (h : v &&& ~~~nn = 0) : v &&& nn = v := by
  ext k hk
  have hbit : v[k] = true → nn[k] = true := by simpa using congrArg (·[k]) h
  simpa using hbit

/-- Settles O34: for every draw the mask and one count more; a value without a bit outside the mask is the result when
it is itself the draw. -/
theorem randomIsMasked : Obligations.RandomIsMasked := by
  unfold Obligations.RandomIsMasked
  refine fun x nn s => ⟨decode_encode (.rnd x nn), rfl, fun r => ?_, fun v hv => ⟨v, ?_⟩⟩
  · refine ⟨rndWith_reg_same r x nn s, ?_, rfl, ?_, keepsRegs_setReg s x (r &&& nn), fun _ => rfl⟩
    · rw [rndWith_reg_same, and_and_not_mask]
    · simp [KeepsParts, rndWith]
  · rw [rndWith_reg_same, and_mask_eq_self hv]

end Sys2Proof.Machine
end

section
/-!
PROOFS. The index register and memory (spec/42_index_memory.md): the loads of `I` (R170, R172), the addition with its
set-only flag (R171), and the three instructions with a range from `I` (R173 to R175), which share one account of the
range check (R68); what is left of each is where its bytes go.
-/

namespace Sys2Proof.Machine

/-! ### The index register -/

/-- A load of `I` writes `I` only (spec/42_index_memory.md R170, R172). -/
theorem onlyParts_setI (s : State) (a : Word) : OnlyParts [.i] s (s.setI a) := by
  refine ⟨?_, fun _ _ => rfl, fun _ => rfl⟩
  simp [KeepsParts]

/-- Settles O35: both are a write of `I`, and GLYPH_BYTES is one of the parameters that a legal configuration fixes. -/
theorem indexLoads : Obligations.IndexLoads := by
  unfold Obligations.IndexLoads
  refine fun nnn x s => ⟨decode_encode (.ldI nnn), decode_encode (.ldFVx x), fun hwf => ?_, ?_, ?_⟩
  · obtain ⟨-, -, -, -, -, -, -, -, hglyph, -⟩ := (Config.wf_iff s.cfg).1 hwf
    exact hglyph
  · exact ⟨_, rfl, absAddr_toNat nnn, onlyParts_setI s _⟩
  · exact ⟨_, rfl, onlyParts_setI s _, BitVec.toNat_ofNat _ 16⟩

/-- The sum of `I` and a byte is modulo 65536 (spec/42_index_memory.md R171). -/
theorem add_zextByte_toNat (a : Word) (b : Byte) : (a + zextByte b).toNat = (a.toNat + b.toNat) % 65536 := by
  rw [BitVec.toNat_add, zextByte_toNat]

/-- Fx1E with the new `I` above 0x0FFF (spec/42_index_memory.md R171). -/
theorem exec_addIVx_of_overflow {x : Reg} {s : State} (h : 0x0FFF < (s.i + zextByte (s.reg x)).toNat) :
    exec (.addIVx x) s = .next ((s.setI (s.i + zextByte (s.reg x))).setFlag true) :=
  if_pos (decide_eq_true h)

/-- Fx1E with the new `I` within 12 bits (spec/42_index_memory.md R171). -/
theorem exec_addIVx_of_noOverflow {x : Reg} {s : State} (h : (s.i + zextByte (s.reg x)).toNat ≤ 0x0FFF) :
    exec (.addIVx x) s = .next (s.setI (s.i + zextByte (s.reg x))) :=
  if_neg (by simpa [indexOverflow] using h)

/-- Settles O36: the two sides of the test on the new `I`; VF is written on one of them only. -/
theorem indexAddSetsFlagOnly : Obligations.IndexAddSetsFlagOnly := by
  unfold Obligations.IndexAddSetsFlagOnly
  refine fun x s => ⟨decode_encode (.addIVx x), ?_⟩
  have hsum := add_zextByte_toNat s.i (s.reg x)
  obtain ⟨hparts, -, hmem⟩ := onlyParts_setI s (s.i + zextByte (s.reg x))
  by_cases hover : 0x0FFF < (s.i + zextByte (s.reg x)).toNat
  · exact ⟨_, exec_addIVx_of_overflow hover, hsum, hparts, hmem, keepsRegs_setReg (s.setI _) vF (flagByte true),
      fun _ => setReg_reg_same (s.setI _) vF (flagByte true), fun hle => absurd hover (Nat.not_lt.2 hle)⟩
  · exact ⟨_, exec_addIVx_of_noOverflow (Nat.not_lt.1 hover), hsum, hparts, hmem, fun _ _ => rfl,
      fun hlt => absurd hlt hover, fun _ => rfl⟩

/-! ### The range check -/

/-- An instruction with a range from `I` has its effect where the range is inside memory, and halts with the lowest
address outside it where it is not (spec/20_memory.md R68). -/
theorem exec_of_withIndexRange {i : Instr} {s u : State} {last : Nat} {effect : State → Prop}
    (hexec : exec i s = withIndexRange s last u) (heffect : effect u) :
    (s.i.toNat + last < s.cfg.memSize → ∃ t, exec i s = .next t ∧ effect t) ∧
    (s.cfg.memSize ≤ s.i.toNat + last →
      ∃ t, exec i s = .next t ∧ HaltsWith (.memOutOfBounds (max s.i.toNat s.cfg.memSize)) s t) := by
  refine ⟨fun hin => ⟨u, ?_, heffect⟩, fun hout => ⟨_, ?_, haltsWith_raise _ s⟩⟩
  · rw [hexec, withIndexRange_in hin]
  · rw [hexec, withIndexRange_out hout]

/-! ### The stores -/

/-- A store from `I` up puts byte `k` of the list at `I + k` (spec/20_memory.md R67). -/
theorem store_indexAddr_byte {s : State} (hmem : Memory.wf s.cfg s.mem = true) (bs : List Byte) (k : Nat) :
    (s.store (s.indexAddr 0) bs).byte (s.indexAddr k) = bs.getD k (s.byte (s.indexAddr k)) := by
  have hle : s.indexAddr 0 ≤ s.indexAddr k := Nat.add_le_add_left (Nat.zero_le k) _
  have hsub : s.indexAddr k - s.indexAddr 0 = k := Nat.add_sub_cancel_left _ _
  rw [store_byte hmem, if_pos hle, hsub]

/-- A store leaves the bytes before and after its own (spec/20_memory.md R65). -/
theorem keepsMemOutside_store {s : State} (hmem : Memory.wf s.cfg s.mem = true) (a : Nat) (bs : List Byte) :
    KeepsMemOutside a bs.length s (s.store a bs) := by
  intro b hb
  rw [store_byte hmem]
  obtain hbelow | habove := hb
  · exact if_neg (Nat.not_le.2 hbelow)
  · rw [if_pos (Nat.le_of_add_right_le habove)]
    exact List.getD_eq_default _ _ (Nat.le_sub_of_add_le' habove)

/-- A store writes memory only (spec/20_memory.md R65). -/
theorem keepsParts_store (s : State) (a : Nat) (bs : List Byte) : KeepsParts [] s (s.store a bs) := by
  simp [KeepsParts]

/-! The decimal digits of a byte each fit a byte (spec/42_index_memory.md R173). -/

section
variable (b d : Byte)

theorem bcdDigits_hundreds_toNat : ((bcdDigits b).getD 0 d).toNat = b.toNat / 100 :=
  Nat.mod_eq_of_lt (by omega)

theorem bcdDigits_tens_toNat : ((bcdDigits b).getD 1 d).toNat = b.toNat / 10 % 10 :=
  Nat.mod_eq_of_lt (by omega)

theorem bcdDigits_ones_toNat : ((bcdDigits b).getD 2 d).toNat = b.toNat % 10 :=
  Nat.mod_eq_of_lt (by omega)

end

/-- Settles O37: inside memory the three digits are stored from `I` up, else the range check halts. -/
theorem bcdStoresThreeDigits : Obligations.BcdStoresThreeDigits := by
  unfold Obligations.BcdStoresThreeDigits
  refine fun x s hmem => ⟨decode_encode (.ldBVx x), exec_of_withIndexRange rfl ⟨?_, ?_, ?_, ?_⟩⟩
  · rw [store_indexAddr_byte hmem, bcdDigits_hundreds_toNat]
  · rw [store_indexAddr_byte hmem, bcdDigits_tens_toNat]
  · rw [store_indexAddr_byte hmem, bcdDigits_ones_toNat]
  · exact ⟨keepsMemOutside_store hmem _ (bcdDigits (s.reg x)), fun _ _ => rfl, keepsParts_store s _ _⟩

/-- Register `r` is the entry of its own number among `V[0..=x]` (spec/42_index_memory.md R174). -/
theorem regsUpTo_getD_toNat (s : State) {x r : Reg} (h : r.toNat ≤ x.toNat) (d : Byte) :
    (s.regsUpTo x).getD r.toNat d = s.reg r := by
  rw [regsUpTo_getD s h, BitVec.ofNat_toNat, BitVec.setWidth_eq]

/-- Settles O38: inside memory `V[0..=x]` is stored from `I` up, else the range check halts. -/
theorem blockStore : Obligations.BlockStore := by
  unfold Obligations.BlockStore
  refine fun x s hmem => ⟨decode_encode (.ldMemVx x), exec_of_withIndexRange rfl ⟨fun r hr => ?_, ?_, ?_⟩⟩
  · rw [store_indexAddr_byte hmem, regsUpTo_getD_toNat s hr]
  · rw [← regsUpTo_length s x]
    exact keepsMemOutside_store hmem _ _
  · exact ⟨fun _ _ => rfl, keepsParts_store s _ _⟩

/-! ### The load -/

/-- Fx65 gives register `r` up to `x` the byte at `I + r` (spec/42_index_memory.md R175). -/
theorem loadRegs_reg_of_le (s : State) {x r : Reg} (h : r.toNat ≤ x.toNat) :
    (s.loadRegs 0 (s.indexBytes (x.toNat + 1))).reg r = s.byte (s.i.toNat + r.toNat) := by
  have hx : x.toNat < 16 := x.isLt
  rw [loadRegs_reg s 0 _ r (by rw [indexBytes_length]; omega), if_pos (Nat.zero_le _)]
  exact indexBytes_getD s (Nat.lt_succ_of_le h) _

/-- Settles O39: inside memory `V[0..=x]` is loaded from `I` up, else the range check halts. -/
theorem blockLoad : Obligations.BlockLoad := by
  unfold Obligations.BlockLoad
  refine fun x s => ⟨decode_encode (.ldVxMem x), exec_of_withIndexRange rfl ⟨?_, ?_, ?_, ?_⟩⟩
  · exact fun r hr => loadRegs_reg_of_le s hr
  · exact fun r hr => loadRegs_reg_above s hr
  · exact fun a => loadRegs_byte s 0 _ a
  · simp [KeepsParts]

end Sys2Proof.Machine
end

section
/-!
PROOFS. The display (spec/43_display.md): 00E0 (R190); Dxyn (R193), whose sprite covers distinct cells of the grid
(R194 e), so that toggling them one after the other is a XOR with the sprite and the collision can be read off the old
grid; and the laws of drawing (R195), which follow from that.
-/

namespace Sys2Proof.Machine

/-! ### Clearing -/

/-- A new grid is the only change (spec/43_display.md R190). -/
theorem onlyParts_setDisp (s : State) (d : List Bool) : OnlyParts [.disp] s (s.setDisp d) := by
  refine ⟨?_, fun _ _ => rfl, fun _ => rfl⟩
  simp [KeepsParts]

/-- Settles O41: the cleared grid is the only change. -/
theorem clearMakesEveryCellZero : Obligations.ClearMakesEveryCellZero := by
  unfold Obligations.ClearMakesEveryCellZero
  exact fun s => ⟨decode_encode .cls, _, rfl, clearDisplay_length s.disp, clearDisplay_getD s.disp,
    onlyParts_setDisp s _⟩

/-! ### The cells of a grid -/

/-- The cell of a grid at a pair of coordinates (spec/10_state.md R35). -/
def gridCell (c : Config) (d : List Bool) (p : Nat × Nat) : Bool := d.getD (p.2 * c.cols + p.1) false

/-- The coordinates are within the grid (spec/10_state.md R35). -/
def InGrid (c : Config) (p : Nat × Nat) : Prop := p.1 < c.cols ∧ p.2 < c.rows

theorem cell_eq_gridCell (s : State) (x y : Nat) : s.cell x y = gridCell s.cfg s.disp (x, y) := rfl

@[simp] theorem gridCell_clearDisplay (c : Config) (d : List Bool) (p : Nat × Nat) :
    gridCell c (clearDisplay d) p = false :=
  clearDisplay_getD d _

/-- Every index of the grid is some cell's (spec/10_state.md R35). -/
theorem exists_cell_of_lt {c : Config} {j : Nat} (hj : j < c.rows * c.cols) :
    ∃ p, InGrid c p ∧ p.2 * c.cols + p.1 = j := by
  have hcols : 0 < c.cols := Nat.pos_of_lt_mul_left hj
  exact ⟨(j % c.cols, j / c.cols), ⟨Nat.mod_lt _ hcols, Nat.div_lt_of_lt_mul (Nat.mul_comm _ _ ▸ hj)⟩,
    Nat.div_add_mod' _ _⟩

/-- Grids with the same cells are the same. -/
theorem grid_ext {c : Config} {d d' : List Bool} (hd : d.length = c.rows * c.cols) (hd' : d'.length = c.rows * c.cols)
    (h : ∀ p, InGrid c p → gridCell c d p = gridCell c d' p) : d = d' := by
  refine List.ext_getElem (hd.trans hd'.symm) fun j hj hj' => ?_
  obtain ⟨p, hp, rfl⟩ := exists_cell_of_lt (hd ▸ hj)
  rw [← List.getD_eq_getElem d false hj, ← List.getD_eq_getElem d' false hj']
  exact h p hp

/-! ### Toggling distinct cells -/

/-- The cells are in the grid and none is listed twice (spec/43_display.md R194 e). -/
def DistinctCells (c : Config) (ps : List (Nat × Nat)) : Prop := ps.Nodup ∧ ∀ p ∈ ps, InGrid c p

theorem distinctCells_cons {c : Config} {q : Nat × Nat} {ps : List (Nat × Nat)} (h : DistinctCells c (q :: ps)) :
    InGrid c q ∧ q ∉ ps ∧ DistinctCells c ps := by
  obtain ⟨hnodup, hgrid⟩ := h
  obtain ⟨hq, hps⟩ := List.nodup_cons.1 hnodup
  exact ⟨hgrid q List.mem_cons_self, hq, hps, fun p hp => hgrid p (List.mem_cons_of_mem q hp)⟩

section
variable {c : Config} {d : List Bool} (hd : d.length = c.rows * c.cols)
include hd

/-- `SetPixel` within the grid toggles its own cell (spec/10_state.md R36). -/
theorem gridCell_setPixel {p q : Nat × Nat} (hq : InGrid c q) (hp : InGrid c p) :
    gridCell c (setPixel c d q.1 q.2).1 p = if p = q then !gridCell c d p else gridCell c d p := by
  obtain ⟨hx, hy⟩ := hq
  simp only [Prod.ext_iff]
  exact setPixel_getD_inside c hx hy hd hp.1

/-- Toggling distinct cells gives each the opposite of what it held and leaves every other cell. -/
theorem gridCell_togglePixels {ps : List (Nat × Nat)} (hit : Bool) (hps : DistinctCells c ps) {p : Nat × Nat}
    (hp : InGrid c p) :
    gridCell c (togglePixels c ps (d, hit)).1 p = if p ∈ ps then !gridCell c d p else gridCell c d p := by
  induction ps generalizing d hit with
  | nil => rfl
  | cons q ps ih =>
    obtain ⟨hq, hnot, hps⟩ := distinctCells_cons hps
    rw [togglePixels, ih ((setPixel_length ..).trans hd) _ hps, gridCell_setPixel hd hq hp]
    by_cases hpq : p = q
    · subst hpq
      simp [hnot]
    · simp [hpq]

/-- Toggling distinct cells reports a collision exactly when one of them was set before. -/
theorem togglePixels_hit_iff {ps : List (Nat × Nat)} (hit : Bool) (hps : DistinctCells c ps) :
    (togglePixels c ps (d, hit)).2 = true ↔ hit = true ∨ ∃ p ∈ ps, gridCell c d p = true := by
  induction ps generalizing d hit with
  | nil => simp [togglePixels]
  | cons q ps ih =>
    obtain ⟨hq, hnot, hps⟩ := distinctCells_cons hps
    have hoff : (setPixel c d q.1 q.2).2 = gridCell c d q := by
      rw [setPixel_inside c d hq.1 hq.2]
      rfl
    have hrest : ∀ p ∈ ps, gridCell c (setPixel c d q.1 q.2).1 p = gridCell c d p := fun p hp => by
      rw [gridCell_setPixel hd hq (hps.2 p hp), if_neg (ne_of_mem_of_not_mem hp hnot)]
    rw [togglePixels, ih ((setPixel_length ..).trans hd) _ hps, hoff, Bool.or_eq_true, or_assoc,
      List.exists_mem_cons_iff]
    exact or_congr_right (or_congr_right (exists_congr fun p => and_congr_right fun hp => by rw [hrest p hp]))

end

/-! ### The cells of a sprite -/

/-- Offsets less than the span fall on distinct coordinates (spec/43_display.md R194 e). -/
theorem offset_eq_of_wrapped_eq {a k k' n : Nat} (hk : k < n) (hk' : k' < n) (h : (a + k) % n = (a + k') % n) :
    k = k' :=
  (Nat.ModEq.add_left_cancel' a h).eq_of_lt_of_lt hk hk'

/-- The 8 columns of a sprite row are distinct (spec/43_display.md R194 e). -/
theorem rowPixels_nodup {c : Config} (hcols : 8 ≤ c.cols) (x0 y : Nat) (b : Byte) : (rowPixels c x0 y b).Nodup := by
  refine List.Nodup.map_on (fun k hk k' hk' h => ?_) (List.nodup_range.filter _)
  have hlt : ∀ {j}, j ∈ (List.range 8).filter (fun k => b.getLsbD (7 - k)) → j < c.cols := fun hj =>
    Nat.lt_of_lt_of_le (List.mem_range.1 (List.mem_of_mem_filter hj)) hcols
  exact offset_eq_of_wrapped_eq (hlt hk) (hlt hk') (Prod.ext_iff.1 h).1

/-- Rows no more than the grid's are distinct (spec/43_display.md R194 e). -/
theorem spritePixels_nodup {c : Config} (hcols : 8 ≤ c.cols) (x0 y : Nat) {bs : List Byte} (hbs : bs.length ≤ c.rows) :
    (spritePixels c x0 y bs).Nodup := by
  induction bs generalizing y with
  | nil => exact List.nodup_nil
  | cons b bs ih =>
    rw [List.length_cons] at hbs
    refine (rowPixels_nodup hcols x0 y b).append (ih (y + 1) (Nat.le_of_succ_le hbs)) fun p hrow hrest => ?_
    obtain ⟨_, -, -, rfl⟩ := mem_rowPixels.1 hrow
    obtain ⟨r, hr, _, -, -, hp⟩ := mem_spritePixels.1 hrest
    have hwrap : (y + 0) % c.rows = (y + (1 + r)) % c.rows := by
      rw [← Nat.add_assoc]
      exact (Prod.ext_iff.1 hp).2
    have hoffset := offset_eq_of_wrapped_eq (by omega) (by omega) hwrap
    omega

/-- A sprite covers distinct cells of the grid (spec/43_display.md R194 e). -/
theorem spritePixels_distinctCells {c : Config} (hwf : c.wf = true) (x0 y0 : Nat) {bs : List Byte}
    (hbs : bs.length ≤ 15) : DistinctCells c (spritePixels c x0 y0 bs) := by
  obtain ⟨-, -, -, hcols, hrows, -⟩ := (Config.wf_iff c).1 hwf
  refine ⟨spritePixels_nodup hcols x0 y0 (hbs.trans hrows), fun p hp => ?_⟩
  obtain ⟨r, -, k, -, -, rfl⟩ := mem_spritePixels.1 hp
  exact ⟨Nat.mod_lt _ (by omega), Nat.mod_lt _ (by omega)⟩

/-! ### Drawing a sprite -/

section
variable {c : Config} {d : List Bool} {bs : List Byte} (hwf : c.wf = true) (hd : d.length = c.rows * c.cols)
  (hbs : bs.length ≤ 15) (x0 y0 : Nat)
include hwf hd hbs

/-- A draw is a XOR of the grid with the sprite (spec/43_display.md R195 c). -/
theorem gridCell_drawSprite {p : Nat × Nat} (hp : InGrid c p) :
    gridCell c (drawSprite c d x0 y0 bs).1 p =
      if p ∈ spritePixels c x0 y0 bs then !gridCell c d p else gridCell c d p :=
  gridCell_togglePixels hd false (spritePixels_distinctCells hwf x0 y0 hbs) hp

/-- A draw collides exactly when a covered cell was set before (spec/43_display.md R195 c). -/
theorem drawSprite_hit_iff :
    (drawSprite c d x0 y0 bs).2 = true ↔ ∃ p ∈ spritePixels c x0 y0 bs, gridCell c d p = true := by
  have hhit := togglePixels_hit_iff hd false (spritePixels_distinctCells hwf x0 y0 hbs)
  rwa [or_iff_right Bool.false_ne_true] at hhit

/-- A XOR with the same sprite twice is none (spec/43_display.md R195 a). -/
theorem drawSprite_drawSprite : (drawSprite c (drawSprite c d x0 y0 bs).1 x0 y0 bs).1 = d := by
  have hd₁ : (drawSprite c d x0 y0 bs).1.length = c.rows * c.cols := (drawSprite_length ..).trans hd
  refine grid_ext ((drawSprite_length ..).trans hd₁) hd fun p hp => ?_
  rw [gridCell_drawSprite hwf hd₁ hbs x0 y0 hp, gridCell_drawSprite hwf hd hbs x0 y0 hp]
  split
  · exact Bool.not_not _
  · rfl

/-- Only a covered cell can be set by a draw, and a second draw finds it set (spec/43_display.md R195 a). -/
theorem drawSprite_hit_of_set_by_first {j : Nat} (hbefore : d.getD j false = false)
    (hafter : (drawSprite c d x0 y0 bs).1.getD j false = true) :
    (drawSprite c (drawSprite c d x0 y0 bs).1 x0 y0 bs).2 = true := by
  have hd₁ : (drawSprite c d x0 y0 bs).1.length = c.rows * c.cols := (drawSprite_length ..).trans hd
  have hj : j < c.rows * c.cols := by
    by_contra hout
    rw [List.getD_eq_default _ _ (hd₁ ▸ Nat.not_lt.1 hout)] at hafter
    exact Bool.false_ne_true hafter
  obtain ⟨p, hp, rfl⟩ := exists_cell_of_lt hj
  refine (drawSprite_hit_iff hwf hd₁ hbs x0 y0).2 ⟨p, ?_, hafter⟩
  by_contra hnot
  have hkept := gridCell_drawSprite hwf hd hbs x0 y0 hp
  rw [if_neg hnot] at hkept
  exact Bool.false_ne_true (hbefore.symm.trans (hkept.symm.trans hafter))

/-- On a cleared grid there is no set cell to collide with (spec/43_display.md R195 b). -/
theorem drawSprite_clearDisplay_hit : (drawSprite c (clearDisplay d) x0 y0 bs).2 = false := by
  refine Bool.eq_false_iff.2 fun hhit => ?_
  obtain ⟨p, -, hset⟩ := (drawSprite_hit_iff hwf ((clearDisplay_length d).trans hd) hbs x0 y0).1 hhit
  rw [gridCell_clearDisplay] at hset
  exact Bool.false_ne_true hset

end

/-- Settles O44: a draw is a XOR with the sprite, and its collision is read off the grid before it. -/
theorem drawingTwiceRestoresTheGrid : Obligations.DrawingTwiceRestoresTheGrid := by
  unfold Obligations.DrawingTwiceRestoresTheGrid
  intro c d x0 y0 bs hwf hd _ _ hbs
  refine ⟨drawSprite_drawSprite hwf hd hbs x0 y0, ?_, drawSprite_clearDisplay_hit hwf hd hbs x0 y0⟩
  rintro ⟨j, hbefore, hafter⟩
  exact drawSprite_hit_of_set_by_first hwf hd hbs x0 y0 hbefore hafter

/-! ### Dxyn -/

/-- Dxyn without rows or with its rows inside memory draws (spec/43_display.md R193, R194 a). -/
theorem exec_drw_of_inside (x y : Reg) {n : Nibble} {s : State}
    (h : n = 0#4 ∨ s.i.toNat + n.toNat - 1 < s.cfg.memSize) :
    exec (.drw x y n) s = .next (drawn x y n.toNat s) := by
  by_cases hn : n = 0#4
  · subst hn
    rfl
  · have hpos : n.toNat ≠ 0 := fun h0 => hn (BitVec.eq_of_toNat_eq h0)
    have hin : s.i.toNat + (n.toNat - 1) < s.cfg.memSize := by
      have := h.resolve_left hn
      omega
    exact (if_neg hn).trans (withIndexRange_in hin _)

/-- Dxyn with rows that leave memory halts (spec/43_display.md R193). -/
theorem exec_drw_of_outside (x y : Reg) {n : Nibble} {s : State} (hn : n ≠ 0#4)
    (h : s.cfg.memSize ≤ s.i.toNat + n.toNat - 1) :
    exec (.drw x y n) s = .next (s.raise (.memOutOfBounds (max s.i.toNat s.cfg.memSize))) := by
  have hpos : n.toNat ≠ 0 := fun h0 => hn (BitVec.eq_of_toNat_eq h0)
  have hout : s.cfg.memSize ≤ s.i.toNat + (n.toNat - 1) := by omega
  exact (if_neg hn).trans (withIndexRange_out hout _)

/-- The cells of the sprite in memory are those that its 1 bits fall on (spec/43_display.md R193). -/
theorem spriteCovers_iff {s : State} {x0 y0 n cx cy : Nat} :
    SpriteCovers s x0 y0 n cx cy ↔ (cx, cy) ∈ spritePixels s.cfg x0 y0 (s.indexBytes n) := by
  rw [mem_spritePixels, indexBytes_length]
  refine exists_congr fun r => and_congr_right fun hr => ?_
  rw [indexBytes_getD s hr]
  simp only [Prod.mk.injEq]

/-- Some set cell of the grid lies under a 1 bit of the sprite (spec/43_display.md R193). -/
theorem exists_covered_iff {s : State} {x0 y0 n : Nat} (hwf : s.cfg.wf = true) (hn : n ≤ 15) :
    (∃ cx < s.cfg.cols, ∃ cy < s.cfg.rows, s.cell cx cy = true ∧ SpriteCovers s x0 y0 n cx cy) ↔
      ∃ p ∈ spritePixels s.cfg x0 y0 (s.indexBytes n), gridCell s.cfg s.disp p = true := by
  simp only [cell_eq_gridCell, spriteCovers_iff]
  constructor
  · rintro ⟨cx, -, cy, -, hset, hcov⟩
    exact ⟨(cx, cy), hcov, hset⟩
  · rintro ⟨p, hp, hset⟩
    obtain ⟨-, hgrid⟩ := spritePixels_distinctCells hwf x0 y0 ((indexBytes_length s n).trans_le hn)
    obtain ⟨hx, hy⟩ := hgrid p hp
    exact ⟨p.1, hx, p.2, hy, hset, hp⟩

/-- VF is the collision of the draw at the coordinates from before VF was written (spec/43_display.md R194 c). -/
theorem drawn_reg_vF (x y : Reg) (n : Nat) (s : State) : (drawn x y n s).reg vF = flagByte
    (drawSprite s.cfg s.disp ((s.reg x).toNat % s.cfg.cols) ((s.reg y).toNat % s.cfg.rows) (s.indexBytes n)).2 :=
  setReg_reg_same (s.setDisp _) vF _

/-- Settles O43: the effect on the grid and on VF is that of `drawSprite`, whose pixels are the covered cells. -/
theorem drawXorsTheSprite : Obligations.DrawXorsTheSprite := by
  unfold Obligations.DrawXorsTheSprite
  intro x y n s hwf hd
  refine ⟨decode_encode (.drw x y n), fun hin => ?_, fun hn hout => ?_⟩
  · have hn : n.toNat ≤ 15 := Nat.le_of_lt_succ n.isLt
    have hbs : (s.indexBytes n.toNat).length ≤ 15 := (indexBytes_length s n.toNat).trans_le hn
    have hcells := @gridCell_drawSprite _ _ _ hwf hd hbs ((s.reg x).toNat % s.cfg.cols) ((s.reg y).toNat % s.cfg.rows)
    have hhit := (exists_covered_iff hwf hn).trans
      (drawSprite_hit_iff hwf hd hbs ((s.reg x).toNat % s.cfg.cols) ((s.reg y).toNat % s.cfg.rows)).symm
    have hvF := drawn_reg_vF x y n.toNat s
    obtain ⟨hparts, -, hmem⟩ := onlyParts_setDisp s (drawn x y n.toNat s).disp
    refine ⟨_, exec_drw_of_inside x y hin, drawSprite_length .., fun cx hcx cy hcy => ?_, fun hset => ?_,
      fun hnone => ?_, hparts, keepsRegs_setReg (s.setDisp _) vF _, hmem⟩
    · rw [spriteCovers_iff, cell_eq_gridCell, cell_eq_gridCell]
      exact ⟨fun hcov => (hcells ⟨hcx, hcy⟩).trans (if_pos hcov),
        fun hnot => (hcells ⟨hcx, hcy⟩).trans (if_neg hnot)⟩
    · exact hvF.trans (congrArg flagByte (hhit.1 hset))
    · exact hvF.trans (congrArg flagByte (Bool.eq_false_iff.2 (mt hhit.2 hnone)))
  · exact ⟨_, exec_drw_of_outside x y hn hout, haltsWith_raise _ s⟩

end Sys2Proof.Machine
end

section
/-!
PROOFS. Keys and timers (spec/44_keys_timers.md): the two key look-ups (R210, R211), which are a skip after the eviction
of the stale entries; the wait that Fx0A arms and a key lifts (R212); the timer instructions (R213 to R215); and that no
instruction reads ST, from one account of the parts that most instructions do not read.
-/

namespace Sys2Proof.Machine

/-! ### The key look-ups -/

/-- A key code loses nothing in a byte (spec/10_state.md R42). -/
theorem keyCode_setWidth_toNat (c : Nibble) : (c.setWidth 8).toNat = c.toNat :=
  BitVec.toNat_setWidth_of_le (by decide)

/-- The look-up finds a key exactly when a live press of the whole byte is recorded (spec/10_state.md R42). -/
theorem keyPressed_iff_pressedWithinTtl {s : State} {c : Byte} : s.keyPressed c = true ↔ PressedWithinTtl s c := by
  rw [keyPressed_iff, PressedWithinTtl]
  refine exists_congr fun e => and_congr_right fun _ => and_comm.trans (and_congr_left fun _ => ?_)
  rw [← BitVec.toNat_inj, keyCode_setWidth_toNat]

/-- Eviction keeps exactly the entries that are not stale, of every code (spec/10_state.md R42). -/
theorem mem_keysEvict_keys {s : State} {e : KeyEntry} :
    e ∈ s.keysEvict.keys ↔ e ∈ s.keys ∧ s.now - e.time ≤ s.cfg.keyTtlMs := by
  rw [keysEvict_keys, List.mem_filter, KeyEntry.live, decide_eq_true_eq]

/-- A look-up writes `pc` and the debounce set only (spec/44_keys_timers.md R210, R211). -/
theorem onlyParts_keysEvict_skipIf (s : State) (c : Bool) : OnlyParts [.pc, .keys] s (s.keysEvict.skipIf c) := by
  obtain ⟨-, hregs, hmem⟩ := onlyParts_skipIf s.keysEvict c
  refine ⟨?_, hregs, hmem⟩
  simp [KeepsParts]

/-- An instruction that evicts and then skips on the test `c`: where `p` makes the test true it adds 2 to `pc`, where `q`
makes it false it leaves `pc`, and beside that only stale entries go (spec/44_keys_timers.md R210, R211). -/
theorem exec_of_keysEvict_skipIf {i : Instr} {s : State} {c : Bool} {p q : Prop}
    (hexec : exec i s = .next (s.keysEvict.skipIf c)) (hskip : p → c = true) (hstay : q → c = false) :
    ∃ t, exec i s = .next t ∧ OnlyParts [.pc, .keys] s t ∧
      (∀ e, e ∈ t.keys ↔ e ∈ s.keys ∧ s.now - e.time ≤ s.cfg.keyTtlMs) ∧
      (p → t.pc = s.pc + 2#16) ∧ (q → t.pc = s.pc) := by
  refine ⟨_, hexec, onlyParts_keysEvict_skipIf s c, fun e => ?_, fun hp => ?_, fun hq => ?_⟩
  · rw [skipIf_keys, mem_keysEvict_keys]
  · rw [skipIf_pc, if_pos (hskip hp), keysEvict_pc]
  · rw [skipIf_pc, hstay hq, if_neg Bool.false_ne_true, keysEvict_pc]

/-- Settles O45: SKP is a skip on the look-up, SKNP one on its negation, and the look-up is the statement's own test. -/
theorem keySkips : Obligations.KeySkips := by
  unfold Obligations.KeySkips
  intro x s
  have hfound := @keyPressed_iff_pressedWithinTtl s (s.reg x)
  have hnotFound : ¬PressedWithinTtl s (s.reg x) → s.keyPressed (s.reg x) = false :=
    fun hno => Bool.eq_false_iff.2 (mt hfound.1 hno)
  refine ⟨decode_encode (.skp x), decode_encode (.sknp x), fun hwf => ?_, ?_, ?_⟩
  · obtain ⟨-, -, -, -, -, -, -, -, -, httl, -⟩ := (Config.wf_iff s.cfg).1 hwf
    exact httl
  · exact exec_of_keysEvict_skipIf rfl hfound.2 hnotFound
  · exact exec_of_keysEvict_skipIf rfl (fun hno => by rw [hnotFound hno, Bool.not_false])
      (fun hyes => by rw [hfound.2 hyes, Bool.not_true])

/-! ### The wait for a key -/

/-- A change of the run state is the only change (spec/44_keys_timers.md R212). -/
theorem onlyParts_setRun (s : State) (r : Run) : OnlyParts [.run] s (s.setRun r) := by
  refine ⟨?_, fun _ _ => rfl, fun _ => rfl⟩
  simp [KeepsParts]

/-- The KEY agent's turn is one key event (spec/60_exceptions.md R258). -/
theorem step_of_key {s : State} {c : Nibble} (hturn : s.turn = .key c) : step s = .next (keyEvent c s.popTurn) := by
  rw [step_eq, hturn]
  rfl

/-- In WAIT_KEY the CPU's turn is no step (spec/44_keys_timers.md R217 b). -/
theorem step_ne_next_of_waitKey {s : State} {x : Reg} (hrun : s.run = .waitKey x) (hturn : s.turn = .cpu) (t : State) :
    step s ≠ .next t := by
  intro hstep
  have hrunning : s.run = .running := (runStateTransitions.2 s t hstep).1 hturn
  rw [hrun] at hrunning
  cases hrunning

/-- A delivered key is what the wait slot's register holds (spec/60_exceptions.md R258). -/
theorem keyEvent_reg_of_waitKey {s : State} {x : Reg} (c : Nibble) (h : s.run = .waitKey x) :
    (keyEvent c s).reg x = c.setWidth 8 := by
  rw [keyEvent_waitKey c h]
  split <;> exact setReg_reg_same s x _

/-- A delivered key leaves the registers beside the wait slot's (spec/60_exceptions.md R258). -/
theorem keepsRegs_keyEvent_of_waitKey {s : State} {x : Reg} (c : Nibble) (h : s.run = .waitKey x) :
    KeepsRegs [x] s (keyEvent c s) := by
  intro r hr
  refine keyEvent_reg_of_ne_waitKey c fun hrun => List.ne_of_not_mem_cons hr ?_
  rw [h] at hrun
  cases hrun
  rfl

/-- Settles O47: the state that Fx0A answers is a wait, in which the CPU has no step and a key event delivers. -/
theorem waitForKeyArmsAndIsLiftedByAKey : Obligations.WaitForKeyArmsAndIsLiftedByAKey := by
  unfold Obligations.WaitForKeyArmsAndIsLiftedByAKey
  intro x c s
  have hwait : (s.setRun (.waitKey x)).popTurn.run = .waitKey x := rfl
  refine ⟨decode_encode (.ldVxK x), _, rfl, rfl, onlyParts_setRun s _, step_ne_next_of_waitKey rfl, fun hturn => ?_⟩
  refine ⟨_, step_of_key hturn, ?_, keyEvent_run_of_waitKey c hwait, keyEvent_pc _ c,
    keepsRegs_keyEvent_of_waitKey c hwait⟩
  rw [keyEvent_reg_of_waitKey c hwait, keyCode_setWidth_toNat]

/-! ### The frames of the timer writes -/

/-- A write of DT is the only change (spec/44_keys_timers.md R214). -/
theorem onlyParts_setDt (s : State) (b : Byte) : OnlyParts [.dt] s (s.setDt b) := by
  refine ⟨?_, fun _ _ => rfl, fun _ => rfl⟩
  simp [KeepsParts]

/-- A write of ST is the only change (spec/44_keys_timers.md R215). -/
theorem onlyParts_setSt (s : State) (b : Byte) : OnlyParts [.st] s (s.setSt b) := by
  refine ⟨?_, fun _ _ => rfl, fun _ => rfl⟩
  simp [KeepsParts]

/-! ### The parts that most instructions do not read -/

/-- The state with other values in ST, the time, the agenda and the log of reports, each a function of the old one. -/
def State.mapUnread (s : State) (st : Byte → Byte) (now : Nat → Nat) (agenda : List Turn → List Turn)
    (reports : List Word → List Word) : State :=
  { s with st := st s.st, now := now s.now, agenda := agenda s.agenda, reports := reports s.reports }

section
variable {st : Byte → Byte} {now : Nat → Nat} {agenda : List Turn → List Turn} {reports : List Word → List Word}

/-- A skip reads none of these parts (spec/40_control_flow.md R120). -/
theorem skipIf_mapUnread (s : State) (c : Bool) :
    (s.mapUnread st now agenda reports).skipIf c = (s.skipIf c).mapUnread st now agenda reports := by
  cases c <;> rfl

/-- A load of registers reads none of these parts (spec/42_index_memory.md R175). -/
theorem loadRegs_mapUnread (s : State) (k : Nat) (bs : List Byte) :
    (s.mapUnread st now agenda reports).loadRegs k bs = (s.loadRegs k bs).mapUnread st now agenda reports := by
  induction bs generalizing s k with
  | nil => rfl
  | cons b bs ih => exact ih (s.setReg (BitVec.ofNat 4 k) b) (k + 1)

/-- The range check reads none of these parts (spec/20_memory.md R68). -/
theorem withIndexRange_mapUnread {s t u : State} {last : Nat} (h : withIndexRange s last u = .next t) :
    withIndexRange (s.mapUnread st now agenda reports) last (u.mapUnread st now agenda reports) =
      .next (t.mapUnread st now agenda reports) := by
  obtain ⟨hout, rfl⟩ | ⟨hin, rfl⟩ := withIndexRange_cases h
  · exact withIndexRange_out (s := s.mapUnread st now agenda reports) hout _
  · exact withIndexRange_in (s := s.mapUnread st now agenda reports) hin _

/-- An instruction does the same whatever ST, the time, the agenda and the reports are, and leaves them there; only Fx18,
which writes ST, and the key look-ups, which read the time, need theirs as it was. -/
theorem exec_mapUnread {i : Instr} {s t : State} (hst : ∀ x, i = .ldStVx x → st = id)
    (hnow : ∀ x, i = .skp x ∨ i = .sknp x → now = id) (h : exec i s = .next t) :
    exec i (s.mapUnread st now agenda reports) = .next (t.mapUnread st now agenda reports) := by
  cases i with
  | ret =>
    obtain ⟨_, _, hstack, rfl⟩ | ⟨hempty, rfl⟩ := exec_ret_cases h
    · exact exec_ret_of_append hstack
    · exact exec_ret_of_empty hempty
  | call nnn =>
    obtain ⟨hroom, rfl⟩ | ⟨hfull, rfl⟩ := exec_call_cases h
    · exact exec_call_of_room nnn hroom
    · exact exec_call_of_full nnn hfull
  | drw x y n =>
    by_cases hn : n = 0#4
    · subst hn
      cases h
      rfl
    · exact (if_neg hn).trans (withIndexRange_mapUnread ((if_neg hn).symm.trans h))
  | ldBVx x | ldMemVx x => exact withIndexRange_mapUnread h
  | ldVxMem x =>
    have hload := withIndexRange_mapUnread (st := st) (now := now) (agenda := agenda) (reports := reports) h
    rwa [← loadRegs_mapUnread] at hload
  | addIVx x =>
    by_cases hover : 0x0FFF < (s.i + zextByte (s.reg x)).toNat
    · rw [exec_addIVx_of_overflow hover] at h
      cases h
      exact exec_addIVx_of_overflow hover
    · rw [exec_addIVx_of_noOverflow (Nat.not_lt.1 hover)] at h
      cases h
      exact exec_addIVx_of_noOverflow (Nat.not_lt.1 hover)
  | skp x | sknp x =>
    obtain rfl : now = id := hnow x (by simp)
    cases h
    rw [← skipIf_mapUnread]
    rfl
  | seVxNn x nn | sneVxNn x nn | seVxVy x y | sneVxVy x y =>
    cases h
    rw [← skipIf_mapUnread]
    rfl
  | ldStVx x =>
    obtain rfl : st = id := hst x rfl
    cases h
    rfl
  | cls | jp nnn | jpV0 nnn | ldI nnn | ldFVx x | ldDtVx x | ldVxDt x | ldVxK x | rnd x nn | ldVxNn x nn | addVxNn x nn
  | ldVxVy x y | orVxVy x y | andVxVy x y | xorVxVy x y | addVxVy x y | subVxVy x y | subnVxVy x y | shrVxVy x y
  | shlVxVy x y =>
    cases h
    rfl

end

/-! ### The timer instructions -/

/-- Settles O48: a register or timer write each; ST is a part that no instruction reads, and Fx18 overwrites it. -/
theorem timerInstructions : Obligations.TimerInstructions := by
  unfold Obligations.TimerInstructions
  refine fun x s => ⟨decode_encode (.ldVxDt x), decode_encode (.ldDtVx x), decode_encode (.ldStVx x), ?_, ?_, ?_,
    fun i b t hi hexec => ?_, fun b => rfl⟩
  · exact ⟨_, rfl, setReg_reg_same s x s.dt, onlyRegs_setReg s x s.dt⟩
  · exact ⟨_, rfl, rfl, onlyParts_setDt s _⟩
  · exact ⟨_, rfl, rfl, rfl, onlyParts_setSt s _⟩
  · exact exec_mapUnread (st := fun _ => b) (now := id) (agenda := id) (reports := id)
      (fun y hy => absurd hy (hi y)) (fun _ _ => rfl) hexec

end Sys2Proof.Machine
end

section
/-!
PROOFS. Exceptions and the other agents (spec/60_exceptions.md): every instruction answers a next state (R240); the CPU
steps in RUNNING only (R241); which instruction halts, with which cause and when (R242, R244); a halt changes nothing
else (R243); the decode failure (R246); the TIMER, KEY and TIME steps (R255, R258, R262); and, from the account of the parts
that most instructions do not read, that none reads the reports or the agenda (R246) and only the key look-ups read the
time (R262).
-/

namespace Sys2Proof.Machine

/-! ### The CPU outside RUNNING -/

/-- In HALTED the CPU's turn stops with the recorded cause (spec/60_exceptions.md R241). -/
theorem cpuStep_of_halted {s : State} (h : s.run = .halted) : cpuStep s = .fault (.halted s.fault) := by
  simp only [cpuStep, h]

/-- In WAIT_KEY the CPU's turn stops with the register waited for (spec/44_keys_timers.md R217 b). -/
theorem cpuStep_of_waitKey {s : State} {x : Reg} (h : s.run = .waitKey x) : cpuStep s = .fault (.waitingForKey x) := by
  simp only [cpuStep, h]

/-- The CPU's turn is one CPU step (spec/30_encoding.md R90). -/
theorem step_of_cpu {s : State} (hturn : s.turn = .cpu) : step s = cpuStep s.popTurn := by
  rw [step_eq, hturn]
  rfl

/-- Settles O15: taking the turn leaves `run` and `fault`, on which the CPU's step stops. -/
theorem cpuHasNoStepOutsideRunning : Obligations.CpuHasNoStepOutsideRunning := by
  unfold Obligations.CpuHasNoStepOutsideRunning
  intro s hturn
  rw [step_of_cpu hturn]
  exact ⟨fun hrun => cpuStep_of_halted (s := s.popTurn) hrun,
    fun x hrun => cpuStep_of_waitKey (s := s.popTurn) hrun⟩

/-! ### Every instruction answers a next state -/

/-- A ranged access answers its effect or the halt (spec/20_memory.md R68). -/
theorem exists_withIndexRange_eq_next (s : State) (last : Nat) (u : State) :
    ∃ t, withIndexRange s last u = .next t := by
  by_cases hin : s.i.toNat + last < s.cfg.memSize
  · exact ⟨_, withIndexRange_in hin u⟩
  · exact ⟨_, withIndexRange_out (Nat.not_lt.1 hin) u⟩

/-- Settles O20: the instructions with a check answer on both of its sides, every other has one answer. -/
theorem everyInstructionAnswersANextState : Obligations.EveryInstructionAnswersANextState := by
  unfold Obligations.EveryInstructionAnswersANextState
  intro i s
  cases i with
  | ret =>
    obtain hempty | ⟨_, _, hstack⟩ := List.eq_nil_or_concat' s.stack
    · exact ⟨_, exec_ret_of_empty hempty⟩
    · exact ⟨_, exec_ret_of_append hstack⟩
  | call nnn =>
    by_cases hroom : s.stack.length < s.cfg.stackCap
    · exact ⟨_, exec_call_of_room nnn hroom⟩
    · exact ⟨_, exec_call_of_full nnn (Nat.not_lt.1 hroom)⟩
  | drw x y n =>
    by_cases hn : n = 0#4
    · exact ⟨_, exec_drw_of_inside x y (.inl hn)⟩
    · obtain ⟨t, ht⟩ := exists_withIndexRange_eq_next s (n.toNat - 1) (drawn x y n.toNat s)
      exact ⟨t, (if_neg hn).trans ht⟩
  | ldBVx x | ldMemVx x | ldVxMem x => exact exists_withIndexRange_eq_next s _ _
  | addIVx x =>
    by_cases hover : 0x0FFF < (s.i + zextByte (s.reg x)).toNat
    · exact ⟨_, exec_addIVx_of_overflow hover⟩
    · exact ⟨_, exec_addIVx_of_noOverflow (Nat.not_lt.1 hover)⟩
  | cls | jp nnn | jpV0 nnn | ldI nnn | ldFVx x | ldDtVx x | ldStVx x | ldVxK x | ldVxDt x | rnd x nn | seVxNn x nn
  | sneVxNn x nn | seVxVy x y | sneVxVy x y | skp x | sknp x | ldVxNn x nn | addVxNn x nn | ldVxVy x y | orVxVy x y
  | andVxVy x y | xorVxVy x y | addVxVy x y | subVxVy x y | subnVxVy x y | shrVxVy x y | shlVxVy x y =>
    exact ⟨_, rfl⟩

/-! ### The causes of a halt -/

/-- The instructions that may write `run`: those with a structural violation, and Fx0A (spec/60_exceptions.md R242). -/
theorem run_mem_writtenParts {i : Instr} : .run ∈ writtenParts i ↔
    i = .ret ∨ (∃ nnn, i = .call nnn) ∨ (∃ x y n, i = .drw x y n) ∨ (∃ x, i = .ldVxK x) ∨
      (∃ x, i = .ldBVx x) ∨ ∃ x, i = .ldMemVx x ∨ i = .ldVxMem x := by
  cases i <;> simp [writtenParts]

/-- An instruction that changes `run` is one that may write it. -/
theorem run_mem_writtenParts_of_run_ne {i : Instr} {s t : State} (h : exec i s = .next t) (hne : t.run ≠ s.run) :
    .run ∈ writtenParts i := by
  obtain ⟨⟨-, -, -, -, -, -, -, hrun, -⟩, -⟩ := exec_inFrame h
  exact not_not.1 (mt hrun hne)

/-- A ranged access whose effect does not halt halts on a range that leaves memory only, with its lowest address outside
(spec/20_memory.md R68). -/
theorem withIndexRange_halted {s t u : State} {last : Nat} (h : withIndexRange s last u = .next t)
    (hu : u.run ≠ .halted) (ht : t.run = .halted) :
    t.fault = some (.memOutOfBounds (max s.i.toNat s.cfg.memSize)) ∧ s.cfg.memSize ≤ s.i.toNat + last := by
  obtain ⟨hout, rfl⟩ | ⟨-, rfl⟩ := withIndexRange_cases h
  · exact ⟨rfl, hout⟩
  · exact absurd ht hu

/-- A draw that halts has rows, and they leave memory (spec/43_display.md R193, R194 a). -/
theorem exec_drw_halted {x y : Reg} {n : Nibble} {s t : State} (hs : s.run ≠ .halted)
    (h : exec (.drw x y n) s = .next t) (ht : t.run = .halted) :
    t.fault = some (.memOutOfBounds (max s.i.toNat s.cfg.memSize)) ∧ 0 < n.toNat ∧
      s.cfg.memSize ≤ s.i.toNat + n.toNat - 1 := by
  by_cases hin : n = 0#4 ∨ s.i.toNat + n.toNat - 1 < s.cfg.memSize
  · rw [exec_drw_of_inside x y hin] at h
    cases h
    exact absurd ht hs
  · obtain ⟨hn, hout⟩ := not_or.1 hin
    rw [exec_drw_of_outside x y hn (Nat.not_lt.1 hout)] at h
    cases h
    exact ⟨rfl, Nat.pos_of_ne_zero fun h0 => hn (BitVec.eq_of_toNat_eq h0), Nat.not_lt.1 hout⟩

/-- Settles O19: only an instruction that may write `run` halts, and of these each halts by its own check; Fx0A does not
halt. -/
theorem causeOfAnExecuteFault : Obligations.CauseOfAnExecuteFault := by
  unfold Obligations.CauseOfAnExecuteFault
  intro i s t hrun hexec hhalt
  have hs : s.run ≠ .halted := by simp [hrun]
  have hne : t.run ≠ s.run := by simp [hrun, hhalt]
  obtain rfl | ⟨nnn, rfl⟩ | ⟨x, y, n, rfl⟩ | ⟨x, rfl⟩ | ⟨x, rfl⟩ | ⟨x, rfl | rfl⟩ :=
    run_mem_writtenParts.1 (run_mem_writtenParts_of_run_ne hexec hne)
  · obtain ⟨_, _, -, rfl⟩ | ⟨hempty, rfl⟩ := exec_ret_cases hexec
    · exact absurd hhalt hs
    · exact .inl ⟨rfl, rfl, hempty⟩
  · obtain ⟨-, rfl⟩ | ⟨hfull, rfl⟩ := exec_call_cases hexec
    · exact absurd hhalt hs
    · exact .inr (.inl ⟨rfl, ⟨nnn, rfl⟩, hfull⟩)
  · obtain ⟨hcause, hn, hout⟩ := exec_drw_halted hs hexec hhalt
    exact .inr (.inr ⟨hcause, .inl ⟨x, y, n, rfl, hn, hout⟩⟩)
  · cases hexec
    cases hhalt
  · obtain ⟨hcause, hout⟩ := withIndexRange_halted hexec hs hhalt
    exact .inr (.inr ⟨hcause, .inr (.inl ⟨x, rfl, hout⟩)⟩)
  · obtain ⟨hcause, hout⟩ := withIndexRange_halted hexec hs hhalt
    exact .inr (.inr ⟨hcause, .inr (.inr ⟨x, .inl rfl, hout⟩)⟩)
  · obtain ⟨hcause, hout⟩ := withIndexRange_halted hexec (by rwa [loadRegs_run]) hhalt
    exact .inr (.inr ⟨hcause, .inr (.inr ⟨x, .inr rfl, hout⟩)⟩)

/-! ### Precision -/

/-- A halt in the execute phase is the raise of a violation and nothing else (spec/60_exceptions.md R241, R243). -/
theorem exec_eq_raise_of_halted {i : Instr} {s t : State} (hrun : s.run ≠ .halted) (h : exec i s = .next t)
    (hhalt : t.run = .halted) : ∃ f, t = s.raise f := by
  obtain ⟨f, rfl, -⟩ | ⟨x, -, rfl⟩ | hdone := exec_endsLegally h
  · exact ⟨f, rfl⟩
  · cases hhalt
  · exact absurd (hdone.run.symm.trans hhalt) hrun

/-- Settles O18: the fetch fault raises before `pc` advances, a decode failure does not halt, and a fault of the execute
phase raises in the advanced state. -/
theorem haltingStepChangesNothingElse : Obligations.HaltingStepChangesNothingElse := by
  unfold Obligations.HaltingStepChangesNothingElse
  intro s t hturn hrun hstep hhalt
  have hs : s.run ≠ .halted := by simp [hrun]
  rw [step_of_cpu hturn] at hstep
  obtain ⟨-, ⟨a, ha, rfl⟩ | ⟨w, -, -, rfl⟩ | ⟨w, i, hw, -, hexec⟩⟩ := cpuStep_cases hstep
  · replace ha : fetchWord s = .error a := ha
    exact ⟨⟨by simp [KeepsParts], fun _ _ => rfl, fun _ => rfl⟩, fun _ => rfl, by simp [ha]⟩
  · exact absurd hhalt hs
  · replace hw : fetchWord s = .ok w := hw
    obtain ⟨f, rfl⟩ := exec_eq_raise_of_halted (s := s.popTurn.advance) hs hexec hhalt
    exact ⟨⟨by simp [KeepsParts], fun _ _ => rfl, fun _ => rfl⟩, by simp [hw], fun _ => rfl⟩

/-! ### The decode failure -/

/-- A word of no row is reported, with `pc` past it (spec/60_exceptions.md R246). -/
theorem runWord_of_decode_none {w : Word} (h : decode w = none) (s : State) :
    runWord w s = .next (s.advance.report w) := by
  simp only [runWord, h]

/-- A report is a pulse with its word (spec/60_exceptions.md R246). -/
theorem decodeFailPulse_of_reports_cons {s t : State} {w : Word} (h : t.reports = w :: s.reports) :
    decodeFailPulse s t = some w := by
  simp [decodeFailPulse, h]

/-- Settles O13: the step is the advance and the report. -/
theorem decodeFailureIsReportedAndSkipped : Obligations.DecodeFailureIsReportedAndSkipped := by
  unfold Obligations.DecodeFailureIsReportedAndSkipped
  intro s w hturn hrun hfetch hdecode
  have hstep : step s = .next (s.popTurn.advance.report w) := by
    rw [step_of_fetchWord_ok hturn hrun hfetch, runWord_of_decode_none hdecode]
  exact ⟨_, hstep, rfl, hrun, decodeFailPulse_of_reports_cons rfl, rfl, by simp [KeepsParts], fun _ _ => rfl,
    fun _ => rfl⟩

/-! ### The TIMER and TIME steps -/

/-- The TIMER agent's turn is one tick (spec/60_exceptions.md R255). -/
theorem step_of_tick {s : State} (hturn : s.turn = .tick) : step s = .next (timerTick s.popTurn) := by
  rw [step_eq, hturn]
  rfl

/-- The TIME agent's turn lets its time pass (spec/60_exceptions.md R262). -/
theorem step_of_time {s : State} {d : Nat} (hturn : s.turn = .time d) : step s = .next (timePasses d s.popTurn) := by
  rw [step_eq, hturn]
  rfl

/-- A decrement stops at 0, as the subtraction of naturals does (spec/60_exceptions.md R255). -/
theorem countDown_toNat (b : Byte) : (countDown b).toNat = b.toNat - 1 := by
  by_cases h0 : b = 0#8
  · subst h0
    rfl
  · have hpos : b.toNat ≠ 0 := fun h => h0 (BitVec.eq_of_toNat_eq h)
    have hle : 1#8 ≤ b := Nat.one_le_iff_ne_zero.2 hpos
    rw [countDown, if_neg h0, BitVec.toNat_sub_of_le hle]
    rfl

/-- Settles O49: both timers count down, and the tick has no other effect. -/
theorem tickCountsBothTimersDown : Obligations.TickCountsBothTimersDown := by
  unfold Obligations.TickCountsBothTimersDown
  exact fun s hturn => ⟨_, step_of_tick hturn, countDown_toNat s.dt, countDown_toNat s.st, timerTick_frame s⟩

/-- No instruction changes the time (spec/60_exceptions.md R262). -/
theorem exec_now {i : Instr} {s t : State} (h : exec i s = .next t) : t.now = s.now := by
  obtain ⟨⟨-, -, -, -, -, -, -, -, -, -, hnow, -⟩, -⟩ := exec_inFrame h
  obtain ⟨-, hnonow, -⟩ := environment_notMem_writtenParts (i := i)
  exact hnow hnonow

/-- The CPU's step leaves the time alone (spec/60_exceptions.md R262). -/
theorem cpuStep_now {s t : State} (h : cpuStep s = .next t) : t.now = s.now := by
  obtain ⟨-, ⟨a, -, rfl⟩ | ⟨w, -, -, rfl⟩ | ⟨w, i, -, -, hexec⟩⟩ := cpuStep_cases h
  · rfl
  · rfl
  · exact exec_now (s := s.advance) hexec

/-- Settles O51: only TIME's own step changes the time, and it adds. -/
theorem timeNeverDecreases : Obligations.TimeNeverDecreases := by
  unfold Obligations.TimeNeverDecreases
  refine ⟨fun d s hturn => ⟨_, step_of_time hturn, rfl, timePasses_frame d s⟩, fun s t hstep => ?_⟩
  obtain ⟨-, hcpu⟩ | ⟨-, rfl⟩ | ⟨c, -, rfl⟩ | ⟨d, -, rfl⟩ | ⟨prog, -, -, rfl⟩ := step_cases hstep
  · exact (cpuStep_now hcpu).ge
  · exact Nat.le_refl _
  · exact (keyEvent_now s.popTurn c).ge
  · exact Nat.le_add_right s.now d
  · exact Nat.le_refl _

/-! ### The KEY step -/

/-- A press with no wait pending is the only change, beside its turn (spec/60_exceptions.md R258). -/
theorem onlyParts_popTurn_keysAdd (s : State) (c : Nibble) : OnlyParts [.keys, .agenda] s (s.popTurn.keysAdd c) := by
  refine ⟨?_, fun _ _ => rfl, fun _ => rfl⟩
  simp [KeepsParts]

/-- A press that lifts a wait is entered in the debounce set only with KEY_WAIT_ALSO_LATCHES (spec/60_exceptions.md
R258). -/
theorem keyEvent_keys_of_waitKey {s : State} {x : Reg} (c : Nibble) (h : s.run = .waitKey x) :
    (keyEvent c s).keys = if s.cfg.keyWaitAlsoLatches then s.keys ++ [⟨c, s.now⟩] else s.keys := by
  rw [keyEvent_waitKey c h]
  split <;> rfl

/-- Settles O50: without a wait the press is latched, with one it is delivered to the wait slot's register. -/
theorem keyStepDeliversOrLatches : Obligations.KeyStepDeliversOrLatches := by
  unfold Obligations.KeyStepDeliversOrLatches
  refine fun c s hturn => ⟨fun hrun => ?_, fun x hrun => ?_⟩
  · have hlatch : keyEvent c s.popTurn = s.popTurn.keysAdd c := keyEvent_noWait (s := s.popTurn) c hrun
    exact ⟨_, hlatch ▸ step_of_key hturn, rfl, onlyParts_popTurn_keysAdd s c⟩
  · have hwait : s.popTurn.run = .waitKey x := hrun
    obtain ⟨hmem, hparts⟩ := keyEvent_frame c s
    refine ⟨_, step_of_key hturn, ?_, keyEvent_run_of_waitKey c hwait, keyEvent_keys_of_waitKey c hwait,
      keepsRegs_keyEvent_of_waitKey c hwait, hmem, hparts.mono (by simp)⟩
    rw [keyEvent_reg_of_waitKey c hwait, keyCode_setWidth_toNat]

/-! ### What instructions do not read -/

/-- Settles O55: the reports and the agenda are among the parts that no instruction reads. -/
theorem reportsAndAgendaAreNotReadByInstructions : Obligations.ReportsAndAgendaAreNotReadByInstructions := by
  unfold Obligations.ReportsAndAgendaAreNotReadByInstructions
  intro i s t ws ag hexec
  exact exec_mapUnread (st := id) (now := id) (agenda := fun _ => ag) (reports := fun _ => ws)
    (fun _ _ => rfl) (fun _ _ => rfl) hexec

/-- Settles O56: the time is a part that an instruction reads only in a key look-up. -/
theorem onlyKeyLookupsReadTheTime : Obligations.OnlyKeyLookupsReadTheTime := by
  unfold Obligations.OnlyKeyLookupsReadTheTime
  intro i s t n hnoLookup hexec
  exact exec_mapUnread (st := id) (now := fun _ => n) (agenda := id) (reports := id)
    (fun _ _ => rfl) (fun x hlookup => absurd hlookup (not_or.2 (hnoLookup x))) hexec

end Sys2Proof.Machine
end

section
/-!
PROOFS. Reset and the end of a run (spec/70_reset_and_hazards.md): the values every element has after reset (R270, R271),
the load of a program image and of the font (R272, R273), and the jump to itself (R276).
-/

namespace Sys2Proof.Machine

/-! ### The block right after reset -/

@[simp] theorem resetOf_reg (c : Config) (r : Reg) : (State.resetOf c).reg r = 0 := by
  simp [State.reg, State.resetOf]

@[simp] theorem resetOf_cell (c : Config) (x y : Nat) : (State.resetOf c).cell x y = false := by
  simp [State.cell, State.resetOf]

@[simp] theorem resetOf_disp_length (c : Config) : (State.resetOf c).disp.length = c.rows * c.cols :=
  List.length_replicate

/-- Without a program every byte is what an unlisted address reads as (spec/70_reset_and_hazards.md R270). -/
@[simp] theorem resetOf_byte (c : Config) (a : Nat) : (State.resetOf c).byte a = Memory.unlisted c a := rfl

/-- Settles O6: each value is that of `State.resetOf`, at the parameters of R6. -/
theorem resetValues : Obligations.ResetValues := by
  unfold Obligations.ResetValues
  exact ⟨resetOf_reg _, rfl, rfl, rfl, rfl, rfl, resetOf_cell _, resetOf_disp_length _, rfl, rfl, rfl,
    resetOf_byte Config.default⟩

/-! ### The reset turn -/

/-- A reset turn with an image that fits starts the block (spec/70_reset_and_hazards.md R272). -/
theorem step_of_reset_fits {s : State} {prog : List Byte} (hturn : s.turn = .reset prog)
    (hfit : s.cfg.imageFits prog = true) : step s = .next (rebooted prog s.popTurn) := by
  rw [step_eq, hturn]
  exact if_pos hfit

/-- A reset turn with a longer image is refused (spec/70_reset_and_hazards.md R272). -/
theorem step_of_reset_tooLong {s : State} {prog : List Byte} (hturn : s.turn = .reset prog)
    (hfit : ¬ s.cfg.imageFits prog = true) : step s = .refused (.imageTooLong prog.length) := by
  rw [step_eq, hturn]
  exact if_neg hfit

/-- After a reset a byte within the image is the image's (spec/70_reset_and_hazards.md R272). -/
theorem rebooted_byte_image {prog : List Byte} {k : Nat} (s : State) (hk : k < prog.length) :
    (rebooted prog s).byte (s.cfg.progBase + k) = prog.getD k 0 := by
  rw [rebooted_byte, if_pos (Nat.le_add_right _ _), Nat.add_sub_cancel_left, List.getD_eq_getElem _ _ hk,
    List.getD_eq_getElem _ _ hk]

/-- After a reset a byte outside the image is that of the block without a program (spec/70_reset_and_hazards.md R270). -/
theorem rebooted_byte_outside {prog : List Byte} {s : State} {a : Nat}
    (ha : a < s.cfg.progBase ∨ s.cfg.progBase + prog.length ≤ a) :
    (rebooted prog s).byte a = Memory.unlisted s.cfg a := by
  rw [rebooted_byte]
  rcases ha with hbelow | habove
  · exact if_neg (Nat.not_le.2 hbelow)
  · rw [if_pos (Nat.le_of_add_right_le habove), List.getD_eq_default _ _ (Nat.le_sub_of_add_le' habove)]

/-- Every byte after a reset, with the image over the font and the zeros (spec/70_reset_and_hazards.md R270, R272). -/
theorem rebooted_byte_eq_image_or_unlisted (prog : List Byte) (s : State) (a : Nat) : (rebooted prog s).byte a =
    if s.cfg.progBase ≤ a ∧ a < s.cfg.progBase + prog.length then prog.getD (a - s.cfg.progBase) 0
    else Memory.unlisted s.cfg a := by
  split
  · next hin =>
    obtain ⟨k, rfl⟩ := Nat.exists_eq_add_of_le hin.1
    rw [Nat.add_sub_cancel_left]
    exact rebooted_byte_image s (Nat.add_lt_add_iff_left.1 hin.2)
  · next hout => exact rebooted_byte_outside (by omega)

/-- Settles O8: the block started is the reset state of its own parameters, with the image in its memory. -/
theorem resetFromAnyState : Obligations.ResetFromAnyState := by
  unfold Obligations.ResetFromAnyState
  intro s prog hturn hlen
  exact ⟨_, step_of_reset_fits hturn ((Config.imageFits_iff _ _).2 hlen), resetOf_reg s.cfg, rfl, rfl, rfl, rfl, rfl,
    resetOf_disp_length s.cfg, resetOf_cell s.cfg, rfl, rfl, rfl, rebooted_byte_eq_image_or_unlisted prog s.popTurn,
    rfl, rfl, rfl, rfl, rfl⟩

/-! ### The loads of the image and of the font -/

/-- The font stands at FONT_BASE (spec/70_reset_and_hazards.md R273). -/
theorem unlisted_font (c : Config) {k : Nat} (hk : k < 80) : Memory.unlisted c (c.fontBase + k) = c.font.getD k 0 := by
  simp [Memory.unlisted, Config.fontBytes, hk]

/-- Outside the font region memory starts as 0 (spec/70_reset_and_hazards.md R270). -/
theorem unlisted_outside_font {c : Config} {a : Nat} (ha : a < c.fontBase ∨ c.fontBase + 80 ≤ a) :
    Memory.unlisted c a = 0 :=
  if_neg fun ⟨hlow, hhigh⟩ => ha.elim (Nat.not_lt.2 hlow) (Nat.not_le.2 hhigh)

/-- PROG_BASE fits the 16 bits of `pc` (spec/00_scope.md R7). -/
theorem rebooted_pc_toNat {s : State} (hwf : s.cfg.wf = true) (prog : List Byte) :
    (rebooted prog s).pc.toNat = s.cfg.progBase := by
  obtain ⟨hmem, hprog, -⟩ := (Config.wf_iff s.cfg).1 hwf
  exact (BitVec.toNat_ofNat _ _).trans (Nat.mod_eq_of_lt (by omega))

/-- Settles O7: the font ends below PROG_BASE, so the image covers none of it; whether the image ends inside memory
decides between the start and the refusal. -/
theorem resetLoadsProgramAndFont : Obligations.ResetLoadsProgramAndFont := by
  unfold Obligations.ResetLoadsProgramAndFont
  intro s prog hwf hturn
  obtain ⟨-, -, hfont, -⟩ := (Config.wf_iff s.cfg).1 hwf
  refine ⟨fun hend => ?_, fun hlong => ?_⟩
  · refine ⟨_, step_of_reset_fits hturn ((Config.imageFits_end hwf).2 hend),
      fun k hk => rebooted_byte_image s.popTurn hk, fun k hk => ?_, fun a himage hfontRegion => ?_,
      rebooted_pc_toNat (s := s.popTurn) hwf prog, rfl⟩
    · have hbelow : s.cfg.fontBase + k < s.cfg.progBase := by omega
      exact (rebooted_byte_outside (s := s.popTurn) (.inl hbelow)).trans (unlisted_font s.cfg hk)
    · exact (rebooted_byte_outside (s := s.popTurn) himage).trans (unlisted_outside_font hfontRegion)
  · exact step_of_reset_tooLong hturn (mt (Config.imageFits_end hwf).1 (Nat.not_le.2 hlong))

/-! ### The end of a run -/

/-- A run has ended when the CPU is RUNNING and the word at `pc` is the jump to `pc` (spec/70_reset_and_hazards.md
R276). -/
theorem atEnd_iff {s : State} : s.atEnd = true ↔
    s.run = .running ∧ fetchWord s = .ok (0x1000#16 ||| s.pc) ∧ s.pc.toNat ≤ 0x0FFF := by
  unfold State.atEnd
  cases hfetch : fetchWord s <;> simp [and_assoc]

/-- An address up to 0x0FFF is the target of a jump (spec/30_encoding.md R96). -/
theorem exists_absAddr_eq {a : Word} (h : a.toNat ≤ 0x0FFF) : ∃ nnn, absAddr nnn = a :=
  ⟨a.setWidth 12, BitVec.eq_of_toNat_eq (by
    rw [absAddr_toNat, BitVec.toNat_setWidth, Nat.mod_eq_of_lt (Nat.lt_succ_of_le h)])⟩

/-- 1nnn puts its address into `pc` (spec/40_control_flow.md R121). -/
theorem exec_jp (nnn : Addr12) (s : State) : exec (.jp nnn) s = .next (s.setPc (absAddr nnn)) := rfl

/-- Settles O57: the word is the jump whose target is the address it stands at, which puts `pc` back. -/
theorem jumpToSelfIsAFixedPoint : Obligations.JumpToSelfIsAFixedPoint := by
  unfold Obligations.JumpToSelfIsAFixedPoint
  intro s hend hturn
  obtain ⟨hrun, hfetch, hpc⟩ := atEnd_iff.1 hend
  obtain ⟨nnn, hnnn⟩ := exists_absAddr_eq hpc
  have hdecode : decode (0x1000#16 ||| s.pc) = some (.jp nnn) := hnnn ▸ decode_encode (.jp nnn)
  rw [step_of_fetchWord_ok hturn hrun hfetch, runWord_of_decode hdecode, exec_jp, hnnn]
  rfl

end Sys2Proof.Machine
end
